-- ==== Sys2Proof/Word.lean ====
section
/-!
DEFINITION. The words of the CDSP-k2: 32-bit words, complex values and the register and address
widths (00_scope.md R8, R11, R12). No operation of the machine stands here.
-/

namespace Sys2Proof

/-- A 32-bit word: one component of a complex value, or an integer (R11). -/
abbrev W32 := BitVec 32

/-- A CodeROM address: the width of `pcr` and `rsr` (R24, R25). -/
abbrev CodeAddr := BitVec 14

/-- The width of the index, base, limit and increment registers, and of a DataROM address (R27, R28). -/
abbrev Index13 := BitVec 13

/-- A RAM address: the width of `bar` (R30, R64). -/
abbrev RamAddr := BitVec 16

/-- A complex value: a pair of two 32-bit words, real part first (R12). -/
structure Cplx where
  re : W32
  im : W32
deriving DecidableEq, Repr, Inhabited

/-- The complex value (0, 0). -/
abbrev Cplx.zero : Cplx := ⟨0, 0⟩

end Sys2Proof
end

