-- ==== Sys2Proof/Syntax.lean ====
section
/-!
DEFINITION. The abstract syntax of the 52 instructions of Table 1 (30_encoding.md R102, R104), one
constructor of `Instr` per row of spec/opcode_table.json, in the table's order.
-/

namespace Sys2Proof

/-- The `r` operand: one of the eight complex registers (10_state.md R21). -/
inductive Reg where
  | r0 | r1 | r2 | r3 | r4 | r5 | r6 | r7
deriving DecidableEq, Repr, Inhabited

/-- The `x` operand: one of the four index registers (10_state.md R27). -/
inductive XReg where
  | x0 | x1 | x2 | x3
deriving DecidableEq, Repr, Inhabited

/-- The `p` operand: `p0` is port p, `p1` is port q (10_state.md R37). -/
inductive Port where
  | p0 | p1
deriving DecidableEq, Repr, Inhabited

/-- The static shift count, 1 or 2 and part of the mnemonic (30_encoding.md R107). -/
inductive Count where
  | one | two
deriving DecidableEq, Repr, Inhabited

/-- The variation of an indexed operand: none, `+`, `-`, `*` (30_encoding.md R102). -/
inductive Upd where
  | none | inc | dec | rev
deriving DecidableEq, Repr, Inhabited

/-- A memory operand `t` (30_encoding.md R102). The direct field is 13 bits wide (decision D3). -/
inductive Operand where
  | romDirect (a : Index13)
  | ramDirect (a : Index13) (biased : Bool)
  | indexed (k : XReg) (upd : Upd) (biased : Bool)
deriving DecidableEq, Repr, Inhabited

/-- The instructions, in the order of Table 1 (30_encoding.md R104). The suffix `R` marks a register
form `op rd,rs`, the suffix `T` the location form `op rd,t` of the same mnemonic. -/
inductive Instr where
  | nop (t : Option Operand)
  | and (r : Reg) (t : Operand)
  | ior (r : Reg) (t : Operand)
  | xor (r : Reg) (t : Operand)
  | add (r : Reg) (t : Operand)
  | sub (r : Reg) (t : Operand)
  | sbx (r : Reg) (t : Operand)
  | ldsDsr (t : Operand)
  | slaDynR (rd rs : Reg)
  | slaDynT (rd : Reg) (t : Operand)
  | sllR (n : Count) (rd rs : Reg)
  | sllT (n : Count) (rd : Reg) (t : Operand)
  | srlR (n : Count) (rd rs : Reg)
  | srlT (n : Count) (rd : Reg) (t : Operand)
  | sraR (n : Count) (rd rs : Reg)
  | sraT (n : Count) (rd : Reg) (t : Operand)
  | sirR (rd rs : Reg)
  | sirT (rd : Reg) (t : Operand)
  | lda (r : Reg) (t : Operand)
  | sta (r : Reg) (t : Operand)
  | ldsPsr (t : Operand)
  | stsPsr (t : Operand)
  | teq (r : Reg) (t : Operand)
  | tne (r : Reg) (t : Operand)
  | tgr (r : Reg) (t : Operand)
  | tge (r : Reg) (t : Operand)
  | tsm (r : Reg) (t : Operand)
  | tse (r : Reg) (t : Operand)
  | tbw (r : Reg) (t : Operand)
  | brt (j : CodeAddr)
  | brf (j : CodeAddr)
  | bra (j : CodeAddr)
  | bri (t : Operand)
  | cyc (r : Reg) (t : Operand)
  | rpt (r : Reg) (t : Operand)
  | jsr (j : CodeAddr)
  | stsRsr (t : Operand)
  | ldsBar (t : Operand)
  | stsBar (t : Operand)
  | addBar (t : Operand)
  | ldsCom (port : Port) (t : Operand)
  | stsCom (port : Port) (t : Operand)
  | ctl (t : Operand)
  | brk
  | wai (t : Operand)
  | xfrPtr (x : XReg) (r : Reg)
  | ldxPtr (x : XReg) (t : Operand)
  | stxPtr (x : XReg) (t : Operand)
  | ldxInc (x : XReg) (t : Operand)
  | ldxBas (x : XReg) (t : Operand)
  | ldxLim (x : XReg) (t : Operand)
  | flsWbb
deriving DecidableEq, Repr, Inhabited

end Sys2Proof
end

