-- ==== Sys2Proof/WellFormed.lean ====
section
/-!
DEFINITION. Which instruction terms are legal: the operand forms of 30_encoding.md R102, R105 and
R106. A term outside these is illegal (R108). The static shift count and the register numbers cannot
be ill-formed: their types hold the legal values only (R107).
-/

namespace Sys2Proof

/-- A form an operand that is read may take (R105): `x0` is never biased and has no bit-reversed
variation, because the DataROM has neither (R102). -/
def Operand.legal : Operand → Bool
  | .indexed .x0 .rev _ => false
  | .indexed .x0 _ true => false
  | _ => true

/-- A form an operand that is written, or indirect, may take (R106): the RAM forms only. -/
def Operand.ramForm : Operand → Bool
  | .ramDirect _ _ => true
  | .indexed .x0 _ _ => false
  | .indexed _ _ _ => true
  | .romDirect _ => false

/-- The direct address of a RAM operand fits an address field of `p` bits, `P_DIRECT_ADDR_BITS`: the
encoding's bits above the field must be 0 (30_encoding.md R111; log 3). A DataROM address has 13 bits
whatever `p` is (40_operands_and_addressing.md R132). -/
def Operand.fits (p : Nat) : Operand → Bool
  | .ramDirect a _ => decide (a.toNat < 2 ^ p)
  | .romDirect _ => true
  | .indexed _ _ _ => true

/-- The operand is an indexed one. -/
def Operand.isIndexed : Operand → Bool
  | .indexed _ _ _ => true
  | _ => false

/-- The operand of `nop`, if it has one, is an indexed operand (41_logic_arith.md R161). -/
def nopLegal : Option Operand → Bool
  | none => true
  | some t => t.isIndexed && t.legal

/-- The legal instruction terms (R104 to R108). -/
def Instr.wellFormed : Instr → Bool
  | .nop t => nopLegal t
  | .and _ t | .ior _ t | .xor _ t | .add _ t | .sub _ t | .sbx _ t => t.legal
  | .ldsDsr t => t.legal
  | .slaDynR _ _ | .sllR _ _ _ | .srlR _ _ _ | .sraR _ _ _ | .sirR _ _ => true
  | .slaDynT _ t | .sllT _ _ t | .srlT _ _ t | .sraT _ _ t | .sirT _ t => t.legal
  | .lda _ t => t.legal
  | .sta _ t => t.ramForm
  | .ldsPsr t => t.legal
  | .stsPsr t => t.ramForm
  | .teq _ t | .tne _ t | .tgr _ t | .tge _ t | .tsm _ t | .tse _ t | .tbw _ t => t.legal
  | .brt _ | .brf _ | .bra _ | .jsr _ => true
  | .bri t => t.ramForm
  | .cyc _ t | .rpt _ t => t.ramForm
  | .stsRsr t => t.ramForm
  | .ldsBar t | .addBar t => t.legal
  | .stsBar t => t.ramForm
  | .ldsCom _ t => t.legal
  | .stsCom _ t => t.ramForm
  | .ctl t | .wai t => t.legal
  | .brk | .flsWbb => true
  | .xfrPtr _ _ => true
  | .ldxPtr _ t | .ldxInc _ t | .ldxBas _ t | .ldxLim _ t => t.legal
  | .stxPtr _ t => t.ramForm

end Sys2Proof
end

