-- ==== Sys2Proof/Decode.lean ====
section
/-!
DEFINITION. The Spec Reference Encoding (30_encoding.md R110 to R113): `decode`, total on any 32-bit
word and rejecting by name, and after it the encoder. The hardware's own encoding is in no source
(R6 (a)), so nothing here is a claim about silicon (log 1).
-/

namespace Sys2Proof

/-- Why a word is no instruction (R108, R112, R113). -/
inductive Illegal where
  /-- `op` is 52 to 63 -/
  | opcode
  /-- `ra` holds a bit the row does not use -/
  | registerField
  /-- `sh` is no count of the row -/
  | countField
  /-- `am` is no operand class of the row, or the class is not a RAM form where the row needs one -/
  | operandClass
  /-- a bit of W[17:0] that the operand class leaves unassigned is set, or the form is illegal -/
  | operandBits
deriving DecidableEq, Repr

/-- The SRE fields of a word (R111): `arg` is W[17:0], split further by the operand class. -/
structure Fields where
  op : BitVec 6
  ra : BitVec 3
  sh : BitVec 2
  am : BitVec 3
  arg : BitVec 18
deriving DecidableEq, Repr

def Fields.ofWord (w : W32) : Fields where
  op := w.extractLsb' 26 6
  ra := w.extractLsb' 23 3
  sh := w.extractLsb' 21 2
  am := w.extractLsb' 18 3
  arg := w.extractLsb' 0 18

def Fields.toWord (f : Fields) : W32 := f.op ++ f.ra ++ f.sh ++ f.am ++ f.arg

def regOf (v : BitVec 3) : Reg :=
  match v.toNat with
  | 0 => .r0 | 1 => .r1 | 2 => .r2 | 3 => .r3 | 4 => .r4 | 5 => .r5 | 6 => .r6 | _ => .r7

def xregOf (v : BitVec 2) : XReg :=
  match v.toNat with
  | 0 => .x0 | 1 => .x1 | 2 => .x2 | _ => .x3

def updOf (v : BitVec 2) : Upd :=
  match v.toNat with
  | 0 => .none | 1 => .inc | 2 => .dec | _ => .rev

def portOf (v : BitVec 1) : Port := if v = 0 then .p0 else .p1

/-- `sh` of a static shift: 1 or 2 (R107, R112). -/
def countOf (v : BitVec 2) : Except Illegal Count :=
  match v.toNat with
  | 1 => .ok .one
  | 2 => .ok .two
  | _ => .error .countField

def require (c : Bool) (e : Illegal) : Except Illegal Unit := if c then .ok () else .error e

/-- The operand of an instruction that reads it: classes 2, 3, 4 (R112, R113 (4)). -/
def readOperand (f : Fields) : Except Illegal Operand :=
  let addr := f.arg.extractLsb' 0 13
  match f.am.toNat with
  | 2 => do
    require (f.arg.extractLsb' 13 5 == 0) .operandBits
    .ok (.romDirect addr)
  | 3 => do
    require (f.arg.extractLsb' 13 4 == 0) .operandBits
    .ok (.ramDirect addr (f.arg.getLsbD 17))
  | 4 => do
    let t := Operand.indexed (xregOf (f.arg.extractLsb' 15 2)) (updOf (f.arg.extractLsb' 13 2)) (f.arg.getLsbD 17)
    require (addr == 0) .operandBits
    require t.legal .operandBits
    .ok t
  | _ => .error .operandClass

/-- The operand of an instruction that writes it or takes it indirectly: a RAM form (R106, R112). -/
def ramOperand (f : Fields) : Except Illegal Operand := do
  let t ← readOperand f
  require t.ramForm .operandClass
  .ok t

/-- `Reg(s)`: class 1, W[17:3] = 0 (R113 (4)). -/
def regOperand (f : Fields) : Except Illegal Reg := do
  require (f.am == 1) .operandClass
  require (f.arg.extractLsb' 3 15 == 0) .operandBits
  .ok (regOf (f.arg.extractLsb' 0 3))

/-- `Jump(j)`: class 5, W[17:14] = 0 (R113 (4)). -/
def jumpOperand (f : Fields) : Except Illegal CodeAddr := do
  require (f.am == 5) .operandClass
  require (f.arg.extractLsb' 14 4 == 0) .operandBits
  .ok (f.arg.extractLsb' 0 14)

/-- No operand: class 0, W[17:0] = 0 (R113 (4)). -/
def noOperand (f : Fields) : Except Illegal Unit := do
  require (f.am == 0) .operandClass
  require (f.arg == 0) .operandBits

def noRa (f : Fields) : Except Illegal Unit := require (f.ra == 0) .registerField
def noSh (f : Fields) : Except Illegal Unit := require (f.sh == 0) .countField

/-- `x` in bits 24:23, bit 25 = 0 (R111). -/
def xField (f : Fields) : Except Illegal XReg := do
  require (f.ra.extractLsb' 2 1 == 0) .registerField
  .ok (xregOf (f.ra.extractLsb' 0 2))

/-- `p` in bit 23, bits 25:24 = 0 (R111). -/
def portField (f : Fields) : Except Illegal Port := do
  require (f.ra.extractLsb' 1 2 == 0) .registerField
  .ok (portOf (f.ra.extractLsb' 0 1))

/-! The shapes of the rows (the table's "format"). -/

def rowBare (f : Fields) (i : Instr) : Except Illegal Instr := do
  noRa f
  noSh f
  noOperand f
  .ok i

def rowNop (f : Fields) : Except Illegal Instr := do
  noRa f
  noSh f
  if f.am = 0 then
    noOperand f
    .ok (.nop none)
  else
    require (f.am == 4) .operandClass
    let t ← readOperand f
    .ok (.nop (some t))

def rowRT (f : Fields) (mk : Reg → Operand → Instr) : Except Illegal Instr := do
  noSh f
  let t ← readOperand f
  .ok (mk (regOf f.ra) t)

def rowRS (f : Fields) (mk : Reg → Operand → Instr) : Except Illegal Instr := do
  noSh f
  let t ← ramOperand f
  .ok (mk (regOf f.ra) t)

def rowT (f : Fields) (mk : Operand → Instr) : Except Illegal Instr := do
  noRa f
  noSh f
  let t ← readOperand f
  .ok (mk t)

def rowS (f : Fields) (mk : Operand → Instr) : Except Illegal Instr := do
  noRa f
  noSh f
  let t ← ramOperand f
  .ok (mk t)

def rowRR (f : Fields) (mk : Reg → Reg → Instr) : Except Illegal Instr := do
  noSh f
  let s ← regOperand f
  .ok (mk (regOf f.ra) s)

def rowRRn (f : Fields) (mk : Count → Reg → Reg → Instr) : Except Illegal Instr := do
  let n ← countOf f.sh
  let s ← regOperand f
  .ok (mk n (regOf f.ra) s)

def rowRTn (f : Fields) (mk : Count → Reg → Operand → Instr) : Except Illegal Instr := do
  let n ← countOf f.sh
  let t ← readOperand f
  .ok (mk n (regOf f.ra) t)

def rowJ (f : Fields) (mk : CodeAddr → Instr) : Except Illegal Instr := do
  noRa f
  noSh f
  let j ← jumpOperand f
  .ok (mk j)

def rowPT (f : Fields) (mk : Port → Operand → Instr) : Except Illegal Instr := do
  let p ← portField f
  noSh f
  let t ← readOperand f
  .ok (mk p t)

def rowPS (f : Fields) (mk : Port → Operand → Instr) : Except Illegal Instr := do
  let p ← portField f
  noSh f
  let t ← ramOperand f
  .ok (mk p t)

def rowXR (f : Fields) (mk : XReg → Reg → Instr) : Except Illegal Instr := do
  let x ← xField f
  noSh f
  let s ← regOperand f
  .ok (mk x s)

def rowXT (f : Fields) (mk : XReg → Operand → Instr) : Except Illegal Instr := do
  let x ← xField f
  noSh f
  let t ← readOperand f
  .ok (mk x t)

def rowXS (f : Fields) (mk : XReg → Operand → Instr) : Except Illegal Instr := do
  let x ← xField f
  noSh f
  let t ← ramOperand f
  .ok (mk x t)

/-- R113 (1), (2): the opcode is the row number of Table 1; 52 to 63 are illegal. -/
def decodeFields (f : Fields) : Except Illegal Instr :=
  match f.op.toNat with
  | 0 => rowNop f
  | 1 => rowRT f .and
  | 2 => rowRT f .ior
  | 3 => rowRT f .xor
  | 4 => rowRT f .add
  | 5 => rowRT f .sub
  | 6 => rowRT f .sbx
  | 7 => rowT f .ldsDsr
  | 8 => rowRR f .slaDynR
  | 9 => rowRT f .slaDynT
  | 10 => rowRRn f .sllR
  | 11 => rowRTn f .sllT
  | 12 => rowRRn f .srlR
  | 13 => rowRTn f .srlT
  | 14 => rowRRn f .sraR
  | 15 => rowRTn f .sraT
  | 16 => rowRR f .sirR
  | 17 => rowRT f .sirT
  | 18 => rowRT f .lda
  | 19 => rowRS f .sta
  | 20 => rowT f .ldsPsr
  | 21 => rowS f .stsPsr
  | 22 => rowRT f .teq
  | 23 => rowRT f .tne
  | 24 => rowRT f .tgr
  | 25 => rowRT f .tge
  | 26 => rowRT f .tsm
  | 27 => rowRT f .tse
  | 28 => rowRT f .tbw
  | 29 => rowJ f .brt
  | 30 => rowJ f .brf
  | 31 => rowJ f .bra
  | 32 => rowS f .bri
  | 33 => rowRS f .cyc
  | 34 => rowRS f .rpt
  | 35 => rowJ f .jsr
  | 36 => rowS f .stsRsr
  | 37 => rowT f .ldsBar
  | 38 => rowS f .stsBar
  | 39 => rowT f .addBar
  | 40 => rowPT f .ldsCom
  | 41 => rowPS f .stsCom
  | 42 => rowT f .ctl
  | 43 => rowBare f .brk
  | 44 => rowT f .wai
  | 45 => rowXR f .xfrPtr
  | 46 => rowXT f .ldxPtr
  | 47 => rowXS f .stxPtr
  | 48 => rowXT f .ldxInc
  | 49 => rowXT f .ldxBas
  | 50 => rowXT f .ldxLim
  | 51 => rowBare f .flsWbb
  | _ => .error .opcode

/-- The instruction a CodeROM word of the Spec Reference Encoding holds (R113). -/
def decode (w : W32) : Except Illegal Instr := decodeFields (Fields.ofWord w)

/-- The decoder on a word numbered as spec/opcode_table.json numbers it; a CodeROM word is 32 bits,
and every bit above the row's bits is 0. -/
def decodeTableWord (nbits w : Nat) : Option Instr :=
  match decode (BitVec.ofNat 32 (w % 2 ^ nbits)) with
  | .ok i => some i
  | .error _ => none

/-! ## The encoder (R111, R112) -/

def regBits : Reg → BitVec 3
  | .r0 => 0 | .r1 => 1 | .r2 => 2 | .r3 => 3 | .r4 => 4 | .r5 => 5 | .r6 => 6 | .r7 => 7

def xregBits : XReg → BitVec 2
  | .x0 => 0 | .x1 => 1 | .x2 => 2 | .x3 => 3

def updBits : Upd → BitVec 2
  | .none => 0 | .inc => 1 | .dec => 2 | .rev => 3

def portBits : Port → BitVec 1
  | .p0 => 0 | .p1 => 1

def countBits : Count → BitVec 2
  | .one => 1 | .two => 2

/-- The class `am` and W[17:0] of a memory operand (R111). -/
def operandAm : Operand → BitVec 3
  | .romDirect _ => 2
  | .ramDirect _ _ => 3
  | .indexed _ _ _ => 4

def operandArg : Operand → BitVec 18
  | .romDirect a => (0#5 ++ a : BitVec 18)
  | .ramDirect a b => (BitVec.ofBool b ++ 0#4 ++ a : BitVec 18)
  | .indexed k u b => (BitVec.ofBool b ++ xregBits k ++ updBits u ++ 0#13 : BitVec 18)

def fieldsT (op : BitVec 6) (ra : BitVec 3) (sh : BitVec 2) (t : Operand) : Fields :=
  ⟨op, ra, sh, operandAm t, operandArg t⟩

def fieldsR (op : BitVec 6) (ra : BitVec 3) (sh : BitVec 2) (s : Reg) : Fields :=
  ⟨op, ra, sh, 1, (0#15 ++ regBits s : BitVec 18)⟩

def fieldsJ (op : BitVec 6) (j : CodeAddr) : Fields := ⟨op, 0, 0, 5, (0#4 ++ j : BitVec 18)⟩

def fieldsBare (op : BitVec 6) : Fields := ⟨op, 0, 0, 0, 0⟩

def raX (x : XReg) : BitVec 3 := (0#1 ++ xregBits x : BitVec 3)
def raPort (p : Port) : BitVec 3 := (0#2 ++ portBits p : BitVec 3)

def encodeFields : Instr → Fields
  | .nop none => fieldsBare 0
  | .nop (some t) => fieldsT 0 0 0 t
  | .and r t => fieldsT 1 (regBits r) 0 t
  | .ior r t => fieldsT 2 (regBits r) 0 t
  | .xor r t => fieldsT 3 (regBits r) 0 t
  | .add r t => fieldsT 4 (regBits r) 0 t
  | .sub r t => fieldsT 5 (regBits r) 0 t
  | .sbx r t => fieldsT 6 (regBits r) 0 t
  | .ldsDsr t => fieldsT 7 0 0 t
  | .slaDynR rd rs => fieldsR 8 (regBits rd) 0 rs
  | .slaDynT rd t => fieldsT 9 (regBits rd) 0 t
  | .sllR n rd rs => fieldsR 10 (regBits rd) (countBits n) rs
  | .sllT n rd t => fieldsT 11 (regBits rd) (countBits n) t
  | .srlR n rd rs => fieldsR 12 (regBits rd) (countBits n) rs
  | .srlT n rd t => fieldsT 13 (regBits rd) (countBits n) t
  | .sraR n rd rs => fieldsR 14 (regBits rd) (countBits n) rs
  | .sraT n rd t => fieldsT 15 (regBits rd) (countBits n) t
  | .sirR rd rs => fieldsR 16 (regBits rd) 0 rs
  | .sirT rd t => fieldsT 17 (regBits rd) 0 t
  | .lda r t => fieldsT 18 (regBits r) 0 t
  | .sta r t => fieldsT 19 (regBits r) 0 t
  | .ldsPsr t => fieldsT 20 0 0 t
  | .stsPsr t => fieldsT 21 0 0 t
  | .teq r t => fieldsT 22 (regBits r) 0 t
  | .tne r t => fieldsT 23 (regBits r) 0 t
  | .tgr r t => fieldsT 24 (regBits r) 0 t
  | .tge r t => fieldsT 25 (regBits r) 0 t
  | .tsm r t => fieldsT 26 (regBits r) 0 t
  | .tse r t => fieldsT 27 (regBits r) 0 t
  | .tbw r t => fieldsT 28 (regBits r) 0 t
  | .brt j => fieldsJ 29 j
  | .brf j => fieldsJ 30 j
  | .bra j => fieldsJ 31 j
  | .bri t => fieldsT 32 0 0 t
  | .cyc r t => fieldsT 33 (regBits r) 0 t
  | .rpt r t => fieldsT 34 (regBits r) 0 t
  | .jsr j => fieldsJ 35 j
  | .stsRsr t => fieldsT 36 0 0 t
  | .ldsBar t => fieldsT 37 0 0 t
  | .stsBar t => fieldsT 38 0 0 t
  | .addBar t => fieldsT 39 0 0 t
  | .ldsCom p t => fieldsT 40 (raPort p) 0 t
  | .stsCom p t => fieldsT 41 (raPort p) 0 t
  | .ctl t => fieldsT 42 0 0 t
  | .brk => fieldsBare 43
  | .wai t => fieldsT 44 0 0 t
  | .xfrPtr x s => fieldsR 45 (raX x) 0 s
  | .ldxPtr x t => fieldsT 46 (raX x) 0 t
  | .stxPtr x t => fieldsT 47 (raX x) 0 t
  | .ldxInc x t => fieldsT 48 (raX x) 0 t
  | .ldxBas x t => fieldsT 49 (raX x) 0 t
  | .ldxLim x t => fieldsT 50 (raX x) 0 t
  | .flsWbb => fieldsBare 51

/-- The word of an instruction in the Spec Reference Encoding (R113: encoding is the inverse). -/
def encode (i : Instr) : W32 := (encodeFields i).toWord

end Sys2Proof
end

