-- ==== Sys2Proof/Machine/Bits.lean ====
section
/-!
DEFINITION. Bit-field, sign-extension and range helpers of 00_scope.md R10, R11, R13, R14 and
40_operands_and_addressing.md R148.
-/

namespace Sys2Proof.Machine

/-- `cplx_of_int_N(v)`: sign-extended to 32 bits, imaginary part 0 (R14). -/
def cplxOfInt {n : Nat} (v : BitVec n) : Cplx := ⟨v.signExtend 32, 0⟩

/-- `trunc_N(Re(c))`: the low N bits of the integer a complex value stands for (R13, D12). -/
def truncRe (n : Nat) (c : Cplx) : BitVec n := c.re.setWidth n

/-- Fits a 32-bit two's complement word. -/
def inRange32 (x : Int) : Bool := decide (-2 ^ 31 ≤ x) && decide (x ≤ 2 ^ 31 - 1)

/-- The nearest value of the 32-bit two's complement range. -/
def clamp32 (x : Int) : W32 :=
  if x < -2 ^ 31 then 0x80000000#32 else if 2 ^ 31 - 1 < x then 0x7FFFFFFF#32 else BitVec.ofInt 32 x

/-- `Big(w)`: outside [-0.5, 0.5) (47_butterfly_mac.md R278). -/
def big (w : W32) : Bool := decide (w.toInt < -2 ^ 30) || decide (2 ^ 30 ≤ w.toInt)

/-- `BitRev13(v)`: bit `i` goes to bit `12 - i` (R148, G2; log 40). -/
def bitRev13 (v : Index13) : Index13 := v.reverse

/-- The word with bit `n` set to `b`. -/
def setBit (w : W32) (n : Nat) (b : Bool) : W32 :=
  (w &&& ~~~(1#32 <<< n)) ||| (if b then 1#32 <<< n else 0)

end Sys2Proof.Machine
end

