-- ==== Sys2Proof/Config.lean ====
section
/-!
DEFINITION. What an implementation fixes (00_scope.md R9) and the free values.

Every open parameter of R9 is an argument of the model: it stands in the record `Params`, which State
carries, so that every statement ranges over all its values (log 2, 3). A parameter that is a function is
there as a `Choice`: the instance the spec suggests, or one of a family of opaque functions with no body.
What R9 leaves uninterpreted, and every value the spec leaves open, is an opaque constant too (log 12). A
free value is applied to the number of the executing instruction, so that each instruction that meets it may
get another one. `BRK_EFFECT` and `ILLEGAL_EFFECT` are as decisions D16 and D20 fix them (log 26, 32).
-/

namespace Sys2Proof.Config

/-- A parameter that is a function: the instance the spec suggests, or an uninterpreted function, one for
each number (R9). -/
inductive Choice where
  | suggested
  | other (id : Nat)
deriving DecidableEq, Repr, Inhabited

/-- Passes of an `rpt` loop minus the value of its counter register (R9, D15). -/
inductive RptBias where
  | minusOne | zero | plusOne
deriving DecidableEq, Repr, Inhabited

/-- What psr b7,b6 = 1 selects: `MAC_BMUX1` (R9, D28, C5). -/
inductive Bmux1 where
  | r4In | r5In
deriving DecidableEq, Repr, Inhabited

/-- What psr b7,b6 = 2 selects: `MAC_BMUX2` (R9, D28, C5). -/
inductive Bmux2 where
  | s3 | d3
deriving DecidableEq, Repr, Inhabited

/-- A run of `size` words from `base`. -/
structure Area where
  base : Nat
  size : Nat
deriving DecidableEq, Repr, Inhabited

/-- The open parameters (R9). -/
structure Params where
  /-- `P_DIRECT_ADDR_BITS`; the reference encoding has room for 13 bits (30_encoding.md R111; log 3) -/
  directBits : Nat
  /-- `K_WIDTH`, the width of port k (D17; log 3) -/
  kWidth : Nat
  /-- `RESET_PCR` (D22; log 3) -/
  resetPcr : CodeAddr
  /-- `RPT_BIAS` (D15) -/
  rptBias : RptBias
  /-- `SLA_DYN` (D10; log 15) -/
  slaDyn : Choice
  /-- `MAC_COMB` (D28; log 16) -/
  macComb : Choice
  /-- `MAC_ROUND`, inside the suggested `MAC_COMB` (D28; log 17) -/
  macRound : Choice
  /-- `MAC_BMUX1` (D28) -/
  bmux1 : Bmux1
  /-- `MAC_BMUX2` (D28) -/
  bmux2 : Bmux2
  /-- `MUL_LATENCY` (D29) -/
  mulLatency : Nat
  /-- `PORT_BLOCKING` (D18) -/
  portBlocking : Bool
  /-- `REGION`: the integer words of the DataROM; every other word is complex (20_memory.md R65; log 41) -/
  romInt : List Area
  /-- `REGION`: the integer words of the RAM -/
  ramInt : List Area
deriving DecidableEq, Repr, Inhabited

/-- The suggested values of R9: the ones the spec's test vectors use. -/
def suggested : Params where
  directBits := 13
  kWidth := 32
  resetPcr := 0
  rptBias := .zero
  slaDyn := .suggested
  macComb := .suggested
  macRound := .suggested
  bmux1 := .r5In
  bmux2 := .s3
  mulLatency := 3
  portBlocking := true
  romInt := []
  ramInt := []

/-! ## Uninterpreted functions -/

/-- `WAI_COND(kin, v)`: the condition `wai` waits for, on a `kin` of as many bits as the first argument
says (45_bar_ports_control.md R247; log 31). -/
opaque waiCond : Nat → Nat → W32 → Bool

/-- What `MAC_COMB` is a function of: psr[19:0], the four input latches, the five internal registers
(47_butterfly_mac.md R278, R283). -/
structure MacIn where
  control : BitVec 20
  r4in : Cplx
  r5in : Cplx
  r6in : Cplx
  r7in : Cplx
  a : Cplx
  b : Cplx
  q : Cplx
  r : Cplx
  lreg : Cplx
deriving DecidableEq, Repr, Inhabited

/-- What `MAC_COMB` gives (R283). -/
structure MacVals where
  s3 : Cplx
  d3 : Cplx
  satRe : Bool
  satIm : Bool
  lNext : Cplx
  mulOut6 : Cplx
  mulOut7 : Cplx
deriving DecidableEq, Repr, Inhabited

/-- `MAC_COMB` where it is not the suggested one: any wiring (R282, R283, U18; log 16). -/
opaque macCombOther : Nat → MacIn → MacVals

/-- `MAC_ROUND` where it is not the suggested one: an adder's output with psr b9 set, from psr b8 and the
exact sum (R281, R283; log 17). -/
opaque macRoundOther : Nat → Bool → Int → Int

/-- `MAC_SCALE(k, v)` for psr b16,b15 = k in 1..3; `v` is one exact product component in units of
2^-62 (47_butterfly_mac.md R280, R283; log 17). -/
opaque macScale : BitVec 2 → Int → W32

/-- `SLA_DYN(v, d)` where it is not the suggested one: a function of its two arguments alone
(42_shift_swap.md R183; log 15). -/
opaque slaDynOther : Nat → W32 → W32 → W32

/-- The suggested `SLA_DYN(v, d)` for an amount outside -31..31 (R183; log 15). -/
opaque slaDynOutside : W32 → W32 → W32

/-- Whether the assembler rounds up a fractional literal (scaled numerator, denominator) that is not a
multiple of 2^-31 (30_encoding.md R118, U22; log 42). -/
opaque literalRoundsUp : Int → Nat → Bool

/-! ## Free values, one constant per purpose, applied to the number of the instruction -/

/-- psr b31,b30 after an ALU operation with b21 = 0: `SATFLAG_UNSAT` (41_logic_arith.md R169; log 13). -/
opaque freeSatFlags : Nat → BitVec 2

/-- The drawn bits of a psr image: b22, b26, b27, b23 while stores may be pending, and the flags
nothing has written (10_state.md R34, R35; log 14). -/
opaque freePsrImage : Nat → W32

/-- `o.s3`, `o.d3` where they are unspecified: R334 is not met, an input is unspecified (R271), or the
adder's option is 3 (log 18, 19). -/
opaque freeS3 : Nat → Cplx
opaque freeD3 : Nat → Cplx

/-- `o.L_next` where it is unspecified (R271; log 19). -/
opaque freeL : Nat → Cplx

/-- The multiplier's outputs where they are unspecified (R271, R334; log 19). -/
opaque freeMulOut6 : Nat → Cplx
opaque freeMulOut7 : Nat → Cplx

/-- The "a" and "b" multiplexers with option 3 (U6; log 18). -/
opaque freeMacA : Nat → Cplx
opaque freeMacB : Nat → Cplx

/-- `r6_in` where the spec says it becomes undefined or unspecified (U1, U6; log 18). -/
opaque freeR6 : Nat → Cplx

/-- The counter register after `rpt` (44_test_branch.md R225, R231 (d); log 29). -/
opaque freeCounter : Nat → Cplx

end Sys2Proof.Config
end

