-- ==== Sys2Proof/Machine/State.lean ====
section
/-!
DEFINITION. The state of one CDSP-k2 processor (10_state.md R20 to R44) as plain data, its reset value,
and the reasons a step can stop (60_exceptions.md R303).
-/

namespace Sys2Proof.Machine

open Sys2Proof (W32 Cplx CodeAddr Index13 RamAddr Reg XReg Port Operand)

/-- The general registers r0 to r3 (R22). -/
structure Gpr where
  r0 : Cplx
  r1 : Cplx
  r2 : Cplx
  r3 : Cplx
deriving DecidableEq, Repr

/-- A register of the Butterfly/MAC unit: its value, and whether that value is specified in the sense of
47_butterfly_mac.md R271. An unspecified one holds a free value (log 12), and whatever the unit computes
from it is unspecified too (log 19). -/
structure MacReg where
  value : Cplx
  specified : Bool
deriving DecidableEq, Repr

/-- A specified zero. -/
abbrev MacReg.zero : MacReg := ⟨.zero, true⟩

/-- After reset: unspecified (R271), with the value log 4 names. -/
abbrev MacReg.reset : MacReg := ⟨.zero, false⟩

/-- The Butterfly/MAC unit: the input latches of r4 to r7 and the internal registers `a`, `b`, `q`,
`r`, `L` (47_butterfly_mac.md R271 (a), (b)). -/
structure Mac where
  r4in : MacReg
  r5in : MacReg
  r6in : MacReg
  r7in : MacReg
  a : MacReg
  b : MacReg
  q : MacReg
  r : MacReg
  lreg : MacReg
deriving DecidableEq, Repr

/-- The four registers of one index: pointer `x`, increment `n`, base `b`, limit `L` (R27 to R29). -/
structure Index where
  ptr : Index13
  inc : Index13
  bas : Index13
  lim : Index13
deriving DecidableEq, Repr

structure IndexFile where
  x0 : Index
  x1 : Index
  x2 : Index
  x3 : Index
deriving DecidableEq, Repr

/-- The hidden hardware-repeat state (R40); `stop` is the spec's `loop.end`, `reg` the counter
register that R231 (d) protects. -/
structure Loop where
  active : Bool
  start : CodeAddr
  stop : CodeAddr
  count : BitVec 32
  reg : Reg
deriving DecidableEq, Repr

/-- The port output paths (R37, R38). `kout` is a word of `K_WIDTH` bits, held as a number because its
width is a parameter (log 3). -/
structure Ports where
  pout : W32
  qout : W32
  kout : Nat
deriving DecidableEq, Repr

/-- What the environment drives: the input paths, and whether each communication path is ready
(R37, R38, R249). `kin` counts modulo 2^`K_WIDTH` (log 3). -/
structure Pins where
  pin : W32
  qin : W32
  kin : Nat
  pinReady : Bool
  qinReady : Bool
  poutReady : Bool
  qoutReady : Bool
deriving DecidableEq, Repr

/-- The events of the environment interface (R249). -/
inductive Event where
  | out (port : Port) (w : W32)
  | inp (port : Port) (w : W32)
  | kout (w : Nat)
  | kin (w : Nat)
deriving DecidableEq, Repr

/-- What a waiting instruction still has to do (R42, R243, R244, R247). -/
inductive Wait where
  /-- `wai`: its operand has been read, the condition is not met yet -/
  | cond (v : W32)
  /-- `lds.com`: its operand has been read, the output path is not ready -/
  | send (port : Port) (w : W32)
  /-- `sts.com`: the input path has no word; the operand is not touched yet -/
  | recv (port : Port) (t : Operand)
deriving DecidableEq, Repr

/-- R42. -/
inductive Run where
  | running
  | waiting (w : Wait)
  | halted
deriving DecidableEq, Repr

/-- Sparse memory by word address: the machine has no bytes (20_memory.md R71), so an entry is a word
(log 11). The canonical form is `Memory.wf` in Machine/Memory.lean. -/
abbrev Memory (α : Type) := List (Nat × α)

/-- The whole state. -/
structure State where
  /-- the open parameters of R9 (the model's own field, log 2) -/
  cfg : Config.Params
  gpr : Gpr
  mac : Mac
  idx : IndexFile
  pcr : CodeAddr
  rsr : CodeAddr
  cmpf : Bool
  bar : RamAddr
  dsr : W32
  /-- the stored psr bits: 19:0, 21, 24, 25, 28 to 31 (R33) -/
  psr : W32
  /-- which psr flag bits something has written since reset (R35; the model's own field, log 6) -/
  flagsWritten : W32
  loop : Loop
  /-- no RAM store since reset or the last `fls.wbb` (R41, R79) -/
  wbbEmpty : Bool
  run : Run
  ports : Ports
  pins : Pins
  /-- what the environment presents before each further step, the next one first (log 30) -/
  env : List Pins
  /-- the port events so far, the latest first (R249) -/
  trace : List Event
  /-- how many instructions have completed: the number of the executing one (R334, log 12) -/
  icount : Nat
  /-- the number of the last instruction that changed a multiplier input (R334) -/
  mulw : Option Nat
  /-- RAM, 65536 words (20_memory.md R64) -/
  ram : Memory Cplx
  /-- DataROM, 8192 words (R63; fixed per program, R43) -/
  rom : Memory Cplx
  /-- CodeROM, 16384 words of the Spec Reference Encoding (R61; fixed per program, R43) -/
  code : Memory W32
deriving DecidableEq, Repr

/-- The model's own outcomes for behaviour without meaning (60_exceptions.md R303). None is a hardware
trap; a faulting instruction changes no state (R304), and each is safe: the model says nothing where
the chip most likely computes something. -/
inductive Fault where
  /-- an undecodable word, an illegal operand form, or a fetch where nothing is placed; raised by the
  fetch and by every operand access (R302, R108). Safe. -/
  | illegalInstruction
  /-- a RAM word read before anything wrote it; raised by every operand read (20_memory.md R67). Safe. -/
  | unwrittenRead
  /-- `ldx.ptr`, `ldx.inc`, `ldx.bas`, `ldx.lim` whose operand updates the index it writes
  (40_operands_and_addressing.md R146). Safe. -/
  | selfConflict
  /-- a write of r7 with psr b12,b11 = 2 by an instruction whose own operand uses x0
  (47_butterfly_mac.md R279 (b)). Safe. -/
  | r6LoadCollision
  /-- `rpt` while a hardware loop is active (44_test_branch.md R231 (a)). Safe. -/
  | nestedRepeat
  /-- `rpt` with a count that gives no pass, or 2^32 (R225, R231 (b)). Safe. -/
  | repeatCount
  /-- `rpt` whose end address is itself or its slot (R225, R231 (c)). Safe. -/
  | repeatEnd
  /-- a write of the counter register while its hardware loop is active (R231 (d)). Safe. -/
  | counterWrite
deriving DecidableEq, Repr

inductive Refusal where
  /-- an instruction the model gives no meaning; raised by `exec` only. Safe. -/
  | notModelled (mnemonic : String)
  /-- a step of a processor that `brk` halted: the run has ended (45_bar_ports_control.md R246,
  60_exceptions.md R313); raised by `step` only. Safe: whether the chip resumes is unknown. -/
  | halted
deriving DecidableEq, Repr

/-- What an instruction answers. -/
abbrev Out := Host.Outcome State Fault Refusal

def Index.reset : Index := ⟨0, 0, 0, 0⟩

/-- The machine right after reset (10_state.md R44, 70_reset_and_hazards.md R330), for every value of the
open parameters: running at `RESET_PCR`, no loop active, the write-back buffer empty, no RAM word
written. The spec calls everything else unspecified; the values here are the model's (log 4 to 7), and
no statement rests on one. Nothing is placed in the CodeROM and the DataROM: a program comes from
outside (log 10). -/
def State.resetOf (p : Config.Params) : State where
  cfg := p
  gpr := ⟨.zero, .zero, .zero, .zero⟩
  mac := ⟨.reset, .reset, .reset, .reset, .reset, .reset, .reset, .reset, .reset⟩
  idx := ⟨.reset, .reset, .reset, .reset⟩
  pcr := p.resetPcr
  rsr := 0
  cmpf := false
  bar := 0
  dsr := 0
  psr := 0
  flagsWritten := 0
  loop := ⟨false, 0, 0, 0, .r0⟩
  wbbEmpty := true
  run := .running
  ports := ⟨0, 0, 0⟩
  pins := ⟨0, 0, 0, true, true, true, true⟩
  env := []
  trace := []
  icount := 0
  mulw := none
  ram := []
  rom := []
  code := []

/-- The machine right after reset, with the parameters R9 suggests. -/
def State.reset : State := State.resetOf Config.suggested

end Sys2Proof.Machine
end

