-- ==== Sys2Proof/Machine/Memory.lean ====
section
/-!
DEFINITION. Sparse word memory: reading and writing one word, and the canonical form, under which equal
memories are equal lists (20_memory.md R60, R64; log 11).
-/

namespace Sys2Proof.Machine

/-- The word at `a`, if one is listed. -/
def Memory.lookup {α : Type} (a : Nat) : Memory α → Option α
  | [] => none
  | (b, v) :: m => if a = b then some v else Memory.lookup a m

/-- The memory with word `a` holding `v`. -/
def Memory.insert {α : Type} (a : Nat) (v : α) : Memory α → Memory α
  | [] => [(a, v)]
  | (b, w) :: m =>
    if a < b then (a, v) :: (b, w) :: m
    else if a = b then (a, v) :: m
    else (b, w) :: Memory.insert a v m

/-- The addresses rise strictly, from `lo` on. -/
def Memory.risingFrom {α : Type} (lo : Nat) : Memory α → Bool
  | [] => true
  | (a, _) :: m => decide (lo ≤ a) && Memory.risingFrom (a + 1) m

/-- The canonical form: strictly rising addresses, and every entry one the memory may list. -/
def Memory.wf {α : Type} (ok : Nat → α → Bool) (m : Memory α) : Bool :=
  Memory.risingFrom 0 m && m.all fun e => ok e.1 e.2

/-- `REGION`: the word `a` lies in an integer area (R65; log 41). -/
def isInteger (areas : List Config.Area) (a : Nat) : Bool :=
  areas.any fun r => decide (r.base ≤ a) && decide (a < r.base + r.size)

/-- A word as its area holds it: an integer word has no imaginary part (R66, R68). -/
def inArea (areas : List Config.Area) (a : Nat) (c : Cplx) : Cplx :=
  if isInteger areas a then ⟨c.re, 0⟩ else c

/-- A RAM entry: inside the 64 KW, and without imaginary part in an integer area. A RAM word nothing
has written has no value, so no entry equals it (log 8). -/
def ramEntryOk (areas : List Config.Area) (a : Nat) (c : Cplx) : Bool :=
  decide (a < 65536) && decide (inArea areas a c = c)

/-- What a DataROM word nothing was placed in reads as (log 9). -/
def romBlank : Cplx := .zero

/-- A DataROM entry: inside the 8 KW, its area's form, and not what an unlisted word reads as. -/
def romEntryOk (areas : List Config.Area) (a : Nat) (c : Cplx) : Bool :=
  decide (a < 8192) && decide (inArea areas a c = c) && decide (c ≠ romBlank)

/-- A CodeROM entry: inside the 16 KW. -/
def codeEntryOk (a : Nat) (_ : W32) : Bool := decide (a < 16384)

end Sys2Proof.Machine
end

