-- ==== Sys2Proof/Machine/Ops.lean ====
section
/-!
DEFINITION. The named operations over memories, index registers, program counter, hardware loop, ports
and psr that every instruction uses.

TAKING AN EXCEPTION, and returning from one, are not here because the machine has neither: the hardware
raises no exception and takes no interrupt, there is no trap entry, no saved status, no vector and no
return (60_exceptions.md R300, R301, R305, R306; log 34).
-/

namespace Sys2Proof.Machine

/-! ## The three memories -/

/-- `RomRead(a)` (20_memory.md R66). -/
def romRead (a : Index13) (s : State) : Cplx :=
  inArea s.cfg.romInt a.toNat ((Memory.lookup a.toNat s.rom).getD romBlank)

/-- `RamRead(a)` (R67); no value where nothing has written. -/
def ramRead (a : RamAddr) (s : State) : Option Cplx :=
  (Memory.lookup a.toNat s.ram).map (inArea s.cfg.ramInt a.toNat)

/-- `RamWrite(a, c)` (R68). The store passes through the write-back buffer (R79). -/
def ramWrite (a : RamAddr) (c : Cplx) (s : State) : State :=
  { s with ram := Memory.insert a.toNat (inArea s.cfg.ramInt a.toNat c) s.ram, wbbEmpty := false }

/-- `Fetch(a)` at the program counter, decoded (R62, 60_exceptions.md R302). -/
def fetch (s : State) : Except Fault Instr :=
  match Memory.lookup s.pcr.toNat s.code with
  | none => .error .illegalInstruction
  | some w =>
    match decode w with
    | .ok i => .ok i
    | .error _ => .error .illegalInstruction

/-! ## Index registers -/

def getIdx (k : XReg) (s : State) : Index :=
  match k with
  | .x0 => s.idx.x0
  | .x1 => s.idx.x1
  | .x2 => s.idx.x2
  | .x3 => s.idx.x3

def setIdx (k : XReg) (v : Index) (s : State) : State :=
  match k with
  | .x0 => { s with idx := { s.idx with x0 := v } }
  | .x1 => { s with idx := { s.idx with x1 := v } }
  | .x2 => { s with idx := { s.idx with x2 := v } }
  | .x3 => { s with idx := { s.idx with x3 := v } }

/-! ## Completion, program counter and hardware loop -/

/-- `NextAddress()`: the address after the completing instruction, and what becomes of the hardware
loop (44_test_branch.md R229). -/
def nextAddress (s : State) : CodeAddr × Loop :=
  if s.loop.active && s.pcr == s.loop.stop then
    if s.loop.count - 1 = 0 then
      (s.pcr + 1, { s.loop with count := s.loop.count - 1, active := false })
    else
      (s.loop.start, { s.loop with count := s.loop.count - 1 })
  else (s.pcr + 1, s.loop)

/-- The instruction completes at address `a`; the completed instructions are counted (R334). -/
def finishAt (a : CodeAddr) (s : State) : State :=
  { s with pcr := a, loop := (nextAddress s).2, icount := s.icount + 1 }

/-- `Next()` (R229). -/
def advance (s : State) : State := finishAt (nextAddress s).1 s

/-- `Goto(a)`: the loop-end check is made, its address discarded (R229, R230). -/
def goTo (a : CodeAddr) (s : State) : State := finishAt a s

/-- `Cmpf <- 1` (R210; log 21). -/
def setCmpf (s : State) : State := { s with cmpf := true }

/-- `Cmpf <- Cmpf AND c` (R210). -/
def andCmpf (c : Bool) (s : State) : State := { s with cmpf := s.cmpf && c }

/-- The common end of an instruction that is no test and transfers no control:
`Cmpf <- 1; Next()` (41_logic_arith.md R160 (b)). -/
def complete (s : State) : State := advance (setCmpf s)

/-- The end of an instruction that transfers control: `Cmpf <- 1; Goto(a)`. -/
def branchTo (a : CodeAddr) (s : State) : State := goTo a (setCmpf s)

/-! ## psr -/

/-- The bits `lds.psr` writes and `sts.psr` reads back: b0 to b19 and b21 (10_state.md R33, D13). -/
def psrControl : W32 := 0x002FFFFF#32

/-- The flag bits that hold a value of their own: b24, b25, b28 to b31 (R33). -/
def psrFlags : W32 := 0xF3000000#32

/-- The bits that are a draw at every read: b22, b26, b27 (R34). -/
def psrDrawn : W32 := 0x0C400000#32

/-- b23, "DataRAM writeback buffer empty flag bit". -/
def psrWbb : W32 := 0x00800000#32

/-- The bits of an image that nothing fixes: the reserved ones, the flags nothing has written, and b23
while a store may be pending (R34, R35, 20_memory.md R79; log 14). -/
def psrOpen (s : State) : W32 :=
  psrDrawn ||| (psrFlags &&& ~~~s.flagsWritten) ||| (if s.wbbEmpty then 0 else psrWbb)

/-- `PsrRead()` (R35). -/
def psrRead (s : State) : W32 :=
  (s.psr &&& (psrControl ||| (psrFlags &&& s.flagsWritten)))
    ||| (if s.wbbEmpty then psrWbb else 0)
    ||| (Config.freePsrImage s.icount &&& psrOpen s)

/-- psr b21, "enable ALU saturation functionality" (R33). -/
def satOn (s : State) : Bool := s.psr.getLsbD 21

/-! ## Ports and the environment (45_bar_ports_control.md R249) -/

/-- What the environment does before the next step. -/
def tick (s : State) : State :=
  match s.env with
  | [] => s
  | p :: rest => { s with pins := p, env := rest }

def emit (e : Event) (s : State) : State := { s with trace := e :: s.trace }

/-- The input path of a port. -/
def portIn (port : Port) (s : State) : W32 :=
  match port with
  | .p0 => s.pins.pin
  | .p1 => s.pins.qin

/-- Whether a port instruction need not stall (R249, PORT_BLOCKING). -/
def inReady (port : Port) (s : State) : Bool :=
  !s.cfg.portBlocking || (match port with | .p0 => s.pins.pinReady | .p1 => s.pins.qinReady)

def outReady (port : Port) (s : State) : Bool :=
  !s.cfg.portBlocking || (match port with | .p0 => s.pins.poutReady | .p1 => s.pins.qoutReady)

/-- `pout <- w` or `qout <- w`, with its event (R243). -/
def portOut (port : Port) (w : W32) (s : State) : State :=
  match port with
  | .p0 => emit (.out .p0 w) { s with ports := { s.ports with pout := w } }
  | .p1 => emit (.out .p1 w) { s with ports := { s.ports with qout := w } }

/-- The word on `kin`, of `K_WIDTH` bits (R38, R247; log 3). -/
def kinWord (s : State) : Nat := s.pins.kin % 2 ^ s.cfg.kWidth

/-- `kout <- w`, with its event (R245). -/
def ctlOut (w : Nat) (s : State) : State :=
  emit (.kout w) { s with ports := { s.ports with kout := w } }

/-! ## Single registers and hidden state -/

def setRsr (a : CodeAddr) (s : State) : State := { s with rsr := a }

def setBar (a : RamAddr) (s : State) : State := { s with bar := a }

def setDsr (w : W32) (s : State) : State := { s with dsr := w }

/-- The write-back buffer holds no store (20_memory.md R80). -/
def emptyWbb (s : State) : State := { s with wbbEmpty := true }

def setRun (r : Run) (s : State) : State := { s with run := r }

def setLoop (l : Loop) (s : State) : State := { s with loop := l }

end Sys2Proof.Machine
end

