-- ==== Sys2Proof/Machine/Operands.lean ====
section
/-!
DEFINITION. Effective addresses, index updates and the operand primitives `Locate`, `Load`, `Store`,
`LoadAddr` (40_operands_and_addressing.md R132 to R148).
-/

namespace Sys2Proof.Machine

/-- A located operand: a memory and a word address in it (R140). -/
inductive Loc where
  | rom (a : Index13)
  | ram (a : RamAddr)
deriving DecidableEq, Repr

/-- The signed offset in a direct address field of `P_DIRECT_ADDR_BITS` bits (R134; log 3), as an address. -/
def directOffset (a : Index13) (s : State) : RamAddr := (a.setWidth s.cfg.directBits).signExtend 16

/-- The RAM address of an unbiased 13-bit field or pointer: zero-extended (R133, R135, D4). -/
def plainAddr (a : Index13) : RamAddr := a.setWidth 16

/-- `Locate(t)` (R140); a biased address is a sum modulo 2^16 (D5). -/
def locate (t : Operand) (s : State) : Loc :=
  match t with
  | .romDirect a => .rom a
  | .ramDirect a biased => .ram (if biased then s.bar + directOffset a s else plainAddr a)
  | .indexed .x0 _ _ => .rom s.idx.x0.ptr
  | .indexed k _ biased =>
    .ram (if biased then s.bar + (getIdx k s).ptr.signExtend 16 else plainAddr (getIdx k s).ptr)

/-- The pointer after a post-increment: `b` if it is equal to `L`, else `x + n` modulo 2^13 (R136). -/
def incPtr (x : Index) : Index13 := if x.ptr = x.lim then x.bas else x.ptr + x.inc

/-- The pointer after a post-decrement (R136). -/
def decPtr (x : Index) : Index13 := if x.ptr = x.lim then x.bas else x.ptr - x.inc

/-- The reversed sum of R137, with its carry in bit 13. -/
def revSum (x : Index) : BitVec 14 := (bitRev13 x.ptr).setWidth 14 + (bitRev13 x.inc).setWidth 14

/-- The pointer after a bit-reversed update: the limit is an addend where the sum carries (R137). -/
def revPtr (x : Index) : Index13 :=
  if (revSum x).getLsbD 13 then bitRev13 ((revSum x).setWidth 13) + x.lim
  else bitRev13 ((revSum x).setWidth 13)

def updPtr (u : Upd) (x : Index) : Index13 :=
  match u with
  | .none => x.ptr
  | .inc => incPtr x
  | .dec => decPtr x
  | .rev => revPtr x

/-- The index update of register `k`. -/
def updateIdx (k : XReg) (u : Upd) (s : State) : State :=
  setIdx k { getIdx k s with ptr := updPtr u (getIdx k s) } s

/-- `Update(t)`: the index update an operand carries (R140). A biased operand updates as an unbiased
one does (R138). -/
def update (t : Operand) (s : State) : State :=
  match t with
  | .indexed k u _ => updateIdx k u s
  | _ => s

/-- The word at a location; no value where RAM has none (20_memory.md R66, R67). -/
def readLoc (l : Loc) (s : State) : Option Cplx :=
  match l with
  | .rom a => some (romRead a s)
  | .ram a => ramRead a s

/-- The operand is a form that may be read (30_encoding.md R105), and its address field fits (log 3). -/
def readable (t : Operand) (s : State) : Bool := t.legal && t.fits s.cfg.directBits

/-- The operand is a form that may be written or indirect (R106), and its address field fits (log 3). -/
def storable (t : Operand) (s : State) : Bool := t.ramForm && t.fits s.cfg.directBits

/-- `Load(t)`: the operand's value and the state after its index update (R141, R145). An illegal form
faults (30_encoding.md R108). -/
def load (t : Operand) (s : State) : Except Fault (Cplx × State) :=
  if readable t s then
    match readLoc (locate t s) s with
    | some v => .ok (v, update t s)
    | none => .error .unwrittenRead
  else .error .illegalInstruction

/-- `Store(t, c)`: RAM forms only (R142, 30_encoding.md R106). -/
def store (t : Operand) (c : Cplx) (s : State) : Except Fault State :=
  if storable t s then
    match locate t s with
    | .ram a => .ok (update t (ramWrite a c s))
    | .rom _ => .error .illegalInstruction
  else .error .illegalInstruction

/-- `LoadAddr(t)`: the CodeROM address an indirect operand's RAM word holds (R143). -/
def loadAddr (t : Operand) (s : State) : Except Fault (CodeAddr × State) :=
  if storable t s then
    match load t s with
    | .ok (v, s') => .ok (truncRe 14 v, s')
    | .error f => .error f
  else .error .illegalInstruction

/-- The operand's index update changes index `k` (R146). -/
def updatesIndex (t : Operand) (k : XReg) : Bool :=
  match t with
  | .indexed j u _ => decide (j = k) && decide (u ≠ .none)
  | _ => false

/-- The instruction's own operand goes through `x0` (47_butterfly_mac.md R279 (b)). -/
def usesX0 (t : Option Operand) : Bool :=
  match t with
  | some (.indexed .x0 _ _) => true
  | _ => false

/-! How a meaning goes on after an operand access. -/

/-- Load `t`, then go on with its value; a fault ends the instruction (60_exceptions.md R304). -/
def onLoad (t : Operand) (s : State) (k : Cplx → State → Out) : Out :=
  match load t s with
  | .ok (v, s') => k v s'
  | .error f => .fault f

def onLoadAddr (t : Operand) (s : State) (k : CodeAddr → State → Out) : Out :=
  match loadAddr t s with
  | .ok (a, s') => k a s'
  | .error f => .fault f

/-- Store `c` at `t`, then complete (41_logic_arith.md R160 (a), (b)). -/
def storeAndComplete (t : Operand) (c : Cplx) (s : State) : Out :=
  match store t c s with
  | .ok s' => .next (complete s')
  | .error f => .fault f

/-- Load `t`, turn the state, complete: the shape of every instruction that loads a special register. -/
def loadAndComplete (t : Operand) (s : State) (f : Cplx → State → State) : Out :=
  onLoad t s fun v s' => .next (complete (f v s'))

end Sys2Proof.Machine
end

