-- ==== Sys2Proof/Machine/Flags.lean ====
section
/-!
DEFINITION. The ALU's component operations with saturation, and the ALU saturation flags
(41_logic_arith.md R165, R169, 42_shift_swap.md R183, R187, R189, R193).
-/

namespace Sys2Proof.Machine

/-- The exact result `x` as a word: saturated when psr b21 is on, wrapped else (R165, R193; log 22). -/
def aluWord (sat : Bool) (x : Int) : W32 := if sat then clamp32 x else BitVec.ofInt 32 x

/-- The `ovf` of R165 and R193. -/
def aluOvf (x : Int) : Bool := !inRange32 x

/-- One component of a result with its overflow. -/
structure AluPart where
  word : W32
  ovf : Bool
deriving DecidableEq, Repr

def aluPart (sat : Bool) (x : Int) : AluPart := ⟨aluWord sat x, aluOvf x⟩

/-- `AluAdd(a, b)` (R165). -/
def aluAdd (sat : Bool) (a b : W32) : AluPart := aluPart sat (a.toInt + b.toInt)

/-- `AluSub(a, b)` (R165). -/
def aluSub (sat : Bool) (a b : W32) : AluPart := aluPart sat (a.toInt - b.toInt)

def countNat : Count → Nat
  | .one => 1
  | .two => 2

/-- `Sll(v, n)` (R193). -/
def sll (sat : Bool) (v : W32) (n : Count) : AluPart := aluPart sat (v.toInt * 2 ^ countNat n)

/-- `v >> n`: zeros enter at bit 31 (R187). -/
def srl (v : W32) (n : Count) : W32 := v >>> countNat n

/-- `Sra(v, n)`: the sign bit is replicated (R189). -/
def sra (v : W32) (n : Count) : W32 := v.sshiftRight (countNat n)

/-- The `SLA_DYN(v, d)` that R183 suggests for amounts -31 to 31; outside them the value is left open
(log 15). -/
def slaDynSuggested (v d : W32) : W32 :=
  if 0 ≤ d.toInt ∧ d.toInt ≤ 31 then v <<< d.toInt.toNat
  else if -31 ≤ d.toInt ∧ d.toInt ≤ -1 then v.sshiftRight (-d.toInt).toNat
  else Config.slaDynOutside v d

/-- `SLA_DYN(v, d)`, the parameter (R183). -/
def slaDyn (p : Config.Params) (v d : W32) : W32 :=
  match p.slaDyn with
  | .suggested => slaDynSuggested v d
  | .other id => Config.slaDynOther id v d

/-- psr b31, b30 after an operation whose components overflowed as told: the overflows when psr b21
is on, else free (R169; log 13). Bit 1 is the real part's flag, bit 0 the imaginary part's. -/
def satFlags (s : State) (ovr ovi : Bool) : BitVec 2 :=
  if satOn s then BitVec.ofBool ovr ++ BitVec.ofBool ovi else Config.freeSatFlags s.icount

/-- `AluFlags(ovr, ovi)` (R169). -/
def setAluFlags (ovr ovi : Bool) (s : State) : State :=
  { s with
    psr := setBit (setBit s.psr 31 ((satFlags s ovr ovi).getLsbD 1)) 30 ((satFlags s ovr ovi).getLsbD 0)
    flagsWritten := s.flagsWritten ||| 0xC0000000#32 }

end Sys2Proof.Machine
end

