-- ==== Sys2Proof/Machine/Mac.lean ====
section
/-!
DEFINITION. The Butterfly/MAC unit and, through it, reading and writing a complex register
(47_butterfly_mac.md R270 to R285, 10_state.md R21, 70_reset_and_hazards.md R334).

`MAC_COMB` is a parameter: the spec's suggested reconstruction of R283, or any other function (log 16).
What the unit computes from an unspecified register, or too early, is unspecified: `none` here (R271,
R334; log 19).
-/

namespace Sys2Proof.Machine

/-! ## Control fields of psr (R272) -/

def fSop (psr : W32) : BitVec 2 := psr.extractLsb' 0 2
def fDop (psr : W32) : BitVec 2 := psr.extractLsb' 2 2
def fAmux (psr : W32) : BitVec 2 := psr.extractLsb' 4 2
def fBmux (psr : W32) : BitVec 2 := psr.extractLsb' 6 2
def fShr (psr : W32) : Bool := psr.getLsbD 8
def fRnd (psr : W32) : Bool := psr.getLsbD 9
def fR5to4 (psr : W32) : Bool := psr.getLsbD 10
def fR7act (psr : W32) : BitVec 2 := psr.extractLsb' 11 2
def fMulop (psr : W32) : BitVec 2 := psr.extractLsb' 13 2
def fScale (psr : W32) : BitVec 2 := psr.extractLsb' 15 2
def fOut45 (psr : W32) : Bool := psr.getLsbD 17
def fOut67 (psr : W32) : Bool := psr.getLsbD 18
def fMuxL (psr : W32) : Bool := psr.getLsbD 19

/-! ## The combinational datapath (R280, R281, R283) -/

/-- A pair of exact integers: a complex value before narrowing. -/
structure Exact where
  re : Int
  im : Int
deriving DecidableEq, Repr

/-- The exact product of R280, in units of 2^-62 (G1; log 40). -/
def mulOp (op : BitVec 2) (m w : Cplx) : Exact :=
  let mr := m.re.toInt
  let mi := m.im.toInt
  let wr := w.re.toInt
  let wi := w.im.toInt
  match op.toNat with
  | 0 => ⟨mr * wr - mi * wi, mr * wi + mi * wr⟩
  | 1 => ⟨mr * wr + mi * wi, mr * wi - mi * wr⟩
  | 2 => ⟨mr * wr + mi * wi, mi * wr - mr * wi⟩
  | _ => ⟨mr * wr, mi * wi⟩

/-- `MulScale`, one component: for scale 0 `floor(exact * 2^31)` saturated, else uninterpreted (R283). -/
def mulScale (k : BitVec 2) (x : Int) : W32 :=
  if k = 0 then clamp32 (x / 2 ^ 31) else Config.macScale k x

/-- `P` of R283: the product of the two factors, operated and scaled. -/
def mulProduct (psr : W32) (m w : Cplx) : Cplx :=
  ⟨mulScale (fScale psr) (mulOp (fMulop psr) m w).re, mulScale (fScale psr) (mulOp (fMulop psr) m w).im⟩

/-- `AdderOp`, one component: 0 sum, 1 difference, 2 reverse difference; option 3 has no value (R281). -/
def adderOp (op : BitVec 2) (x y : W32) : Option Int :=
  match op.toNat with
  | 0 => some (x.toInt + y.toInt)
  | 1 => some (x.toInt - y.toInt)
  | 2 => some (y.toInt - x.toInt)
  | _ => none

/-- `MAC_ROUND`: an adder's output with psr b9 set; suggested, a one is added before the halving, and
without a halving nothing (R283; log 17). -/
def macRound (p : Config.Params) (shr : Bool) (x : Int) : Int :=
  match p.macRound with
  | .suggested => if shr then (x + 1) / 2 else x
  | .other id => Config.macRoundOther id shr x

/-- The rounding and the output shift of `Post` (R283). -/
def postShift (p : Config.Params) (psr : W32) (x : Int) : Int :=
  if fRnd psr then macRound p (fShr psr) x else if fShr psr then x / 2 else x

/-- An adder's output with its saturation. -/
structure Sum where
  out : Cplx
  satRe : Bool
  satIm : Bool
deriving DecidableEq, Repr

/-- `Post` of both components (R283). -/
def post (p : Config.Params) (psr : W32) (re im : Int) : Sum where
  out := ⟨clamp32 (postShift p psr re), clamp32 (postShift p psr im)⟩
  satRe := aluOvf (postShift p psr re)
  satIm := aluOvf (postShift p psr im)

/-- The value of a register of the unit, where it is specified (R271). -/
def MacReg.known (r : MacReg) : Option Cplx := if r.specified then some r.value else none

/-- A register that takes an output: a free value where the output is unspecified. -/
def MacReg.take (out : Option Cplx) (free : Cplx) : MacReg := ⟨out.getD free, out.isSome⟩

/-- One adder with `Post`: unspecified with an unspecified input or with option 3 (R271, R283, U6). -/
def adder (p : Config.Params) (psr : W32) (op : BitVec 2) (x y : Option Cplx) : Option Sum := do
  let u ← x
  let v ← y
  let re ← adderOp op u.re v.re
  let im ← adderOp op u.im v.im
  some (post p psr re im)

/-- The multiplier's inputs are old enough for this instruction: `i - mulw >= MUL_LATENCY + 1` (R334). -/
def mulReady (s : State) : Bool :=
  match s.mulw with
  | none => false
  | some w => decide (w + s.cfg.mulLatency + 1 ≤ s.icount)

/-- The outputs of `MAC_COMB` for this instruction, `none` where unspecified. -/
structure MacOut where
  s3 : Option Cplx
  d3 : Option Cplx
  satRe : Option Bool
  satIm : Option Bool
  lNext : Option Cplx
  mulOut6 : Option Cplx
  mulOut7 : Option Cplx
deriving DecidableEq, Repr

/-- The product of the suggested datapath: specified where both factors are and R334 is met. -/
def macProduct (s : State) : Option Cplx :=
  if mulReady s then do
    let m ← (if fMuxL s.psr then s.mac.lreg else s.mac.r6in).known
    let w ← s.mac.r7in.known
    some (mulProduct s.psr m w)
  else none

def sumOut (s : State) : Option Sum :=
  adder s.cfg s.psr (fSop s.psr) s.mac.a.known (macProduct s)

def difOut (s : State) : Option Sum :=
  adder s.cfg s.psr (fDop s.psr) s.mac.b.known (macProduct s)

/-- One part's saturation, of either adder. -/
def satOut (part : Sum → Bool) (s : State) : Option Bool := do
  let x ← sumOut s
  let y ← difOut s
  some (part x || part y)

/-- `MAC_COMB` as R283 suggests it: `s1 = a`, `d1 = b`, `s2 = d2 =` the product, `L` from `r6_in`. -/
def suggestedOut (s : State) : MacOut where
  s3 := (sumOut s).map Sum.out
  d3 := (difOut s).map Sum.out
  satRe := satOut Sum.satRe s
  satIm := satOut Sum.satIm s
  lNext := s.mac.r6in.known
  mulOut6 := macProduct s
  mulOut7 := macProduct s

/-- The arguments of `MAC_COMB` (R278). -/
def macIn (s : State) : Config.MacIn where
  control := s.psr.setWidth 20
  r4in := s.mac.r4in.value
  r5in := s.mac.r5in.value
  r6in := s.mac.r6in.value
  r7in := s.mac.r7in.value
  a := s.mac.a.value
  b := s.mac.b.value
  q := s.mac.q.value
  r := s.mac.r.value
  lreg := s.mac.lreg.value

/-- Every register of the unit is specified. -/
def Mac.specified (m : Mac) : Bool :=
  m.r4in.specified && m.r5in.specified && m.r6in.specified && m.r7in.specified && m.a.specified &&
    m.b.specified && m.q.specified && m.r.specified && m.lreg.specified

/-- Any other `MAC_COMB`: each output may depend on each register, so all must be specified; R334 and the
adders' options apply as they do to the suggested one, and `L_next` waits for nothing. -/
def otherOut (id : Nat) (s : State) : MacOut :=
  let o := Config.macCombOther id (macIn s)
  let ready := s.mac.specified && mulReady s
  let sum := ready && decide (fSop s.psr ≠ 3)
  let dif := ready && decide (fDop s.psr ≠ 3)
  { s3 := if sum then some o.s3 else none
    d3 := if dif then some o.d3 else none
    satRe := if sum && dif then some o.satRe else none
    satIm := if sum && dif then some o.satIm else none
    lNext := if s.mac.specified then some o.lNext else none
    mulOut6 := if ready then some o.mulOut6 else none
    mulOut7 := if ready then some o.mulOut7 else none }

/-- What the unit puts out for this instruction (R278, R283). -/
def macOut (s : State) : MacOut :=
  match s.cfg.macComb with
  | .suggested => suggestedOut s
  | .other id => otherOut id s

/-! ## Reading a complex register -/

/-- `r[i]`: registers 4 to 7 through their output multiplexers (R274). A read has no side effect;
an unspecified output reads as a free value (log 12). -/
def readReg (i : Reg) (s : State) : Cplx :=
  match i with
  | .r0 => s.gpr.r0
  | .r1 => s.gpr.r1
  | .r2 => s.gpr.r2
  | .r3 => s.gpr.r3
  | .r4 => (if fOut45 s.psr then s.mac.q else s.mac.r4in).value
  | .r5 => (if fOut45 s.psr then s.mac.r else s.mac.r5in).value
  | .r6 => if fOut67 s.psr then (macOut s).mulOut6.getD (Config.freeMulOut6 s.icount) else s.mac.r6in.value
  | .r7 => if fOut67 s.psr then (macOut s).mulOut7.getD (Config.freeMulOut7 s.icount) else s.mac.r7in.value

/-! ## Writing a complex register -/

/-- The instruction's memory operand is an `Indexed` form (R279 (b)). -/
def isIndexedOperand (t : Option Operand) : Bool :=
  match t with
  | some u => u.isIndexed
  | none => false

/-- The registers that take `o.s3` and `o.d3`. -/
def takeS3 (s : State) : MacReg := .take (macOut s).s3 (Config.freeS3 s.icount)

def takeD3 (s : State) : MacReg := .take (macOut s).d3 (Config.freeD3 s.icount)

/-- `a_new` of R278. -/
def nextA (s : State) : MacReg :=
  match (fAmux s.psr).toNat with
  | 0 => .zero
  | 1 => s.mac.r4in
  | 2 => takeS3 s
  | _ => .take none (Config.freeMacA s.icount)

/-- `b_new` of R278, R279 (c). -/
def nextB (s : State) : MacReg :=
  match (fBmux s.psr).toNat with
  | 0 => .zero
  | 1 => match s.cfg.bmux1 with | .r4In => s.mac.r4in | .r5In => s.mac.r5in
  | 2 => match s.cfg.bmux2 with | .s3 => takeS3 s | .d3 => takeD3 s
  | _ => .take none (Config.freeMacB s.icount)

/-- `r6_in` after a write `v` of r7 (R278, R279 (b)). -/
def nextR6 (v : Cplx) (t : Option Operand) (s : State) : MacReg :=
  match (fR7act s.psr).toNat with
  | 0 => s.mac.r6in
  | 1 => ⟨v, true⟩
  | 2 => .take (if isIndexedOperand t then some (romRead s.idx.x0.ptr s) else none) (Config.freeR6 s.icount)
  | _ => .take none (Config.freeR6 s.icount)

/-- The Butterfly/MAC registers after a write `v` of r7: all from the values before it (R278). -/
def nextMac (v : Cplx) (t : Option Operand) (s : State) : Mac where
  r4in := s.mac.r4in
  r5in := s.mac.r5in
  r6in := nextR6 v t s
  r7in := ⟨v, true⟩
  a := nextA s
  b := nextB s
  q := takeS3 s
  r := takeD3 s
  lreg := .take (macOut s).lNext (Config.freeL s.icount)

/-- Whether `s3` or `d3` has a part outside [-0.5, 0.5): `Big` (R278, R284). -/
def bigOut (part : Cplx → W32) (o : MacOut) : Option Bool := do
  let x ← o.s3
  let y ← o.d3
  some (big (part x) || big (part y))

/-- The four flags a write of r7 accumulates into, b24, b25, b28 and b29 (R284), each with what `f` makes
of the condition that feeds it. -/
def accFlags (f : Option Bool → Bool) (o : MacOut) : W32 :=
  (if f (bigOut Cplx.re o) then 1#32 <<< 24 else 0) ||| (if f (bigOut Cplx.im o) then 1#32 <<< 25 else 0)
    ||| (if f o.satIm then 1#32 <<< 28 else 0) ||| (if f o.satRe then 1#32 <<< 29 else 0)

/-- The flags that are set. -/
def flagsSet (o : MacOut) : W32 := accFlags (fun c => c == some true) o

/-- The flags an unspecified condition feeds: they become draws, whatever they were (R271, R334, U16). -/
def flagsOpen (o : MacOut) : W32 := accFlags Option.isNone o

/-- psr, and the record of the flags that are written, after the flags accumulate: a flag that becomes a
draw is a flag nothing has written (10_state.md R35; log 6, 19). -/
def accumulate (o : MacOut) (w : W32) : W32 := (w &&& ~~~flagsOpen o) ||| flagsSet o

/-- `WriteR7(v, t)` (R278). -/
def writeR7 (v : Cplx) (t : Option Operand) (s : State) : State :=
  let s' : State :=
    { s with
      mac := nextMac v t s
      psr := accumulate (macOut s) s.psr
      flagsWritten := accumulate (macOut s) s.flagsWritten
      mulw := some s.icount }
  if fR7act s.psr = 2 ∧ isIndexedOperand t = true then updateIdx .x0 .inc s' else s'

/-- `r[i] <- c` by an instruction whose memory operand is `t`, if it has one (R21, R275 to R278). -/
def writeReg (i : Reg) (c : Cplx) (t : Option Operand) (s : State) : State :=
  match i with
  | .r0 => { s with gpr := { s.gpr with r0 := c } }
  | .r1 => { s with gpr := { s.gpr with r1 := c } }
  | .r2 => { s with gpr := { s.gpr with r2 := c } }
  | .r3 => { s with gpr := { s.gpr with r3 := c } }
  | .r4 => { s with mac := { s.mac with r4in := ⟨c, true⟩ } }
  | .r5 =>
    { s with mac := { s.mac with r5in := ⟨c, true⟩, r4in := if fR5to4 s.psr then ⟨c, true⟩ else s.mac.r4in } }
  | .r6 => { s with mac := { s.mac with r6in := ⟨c, true⟩ }, mulw := some s.icount }
  | .r7 => writeR7 c t s

/-- A write of register `i` also writes register `j`: itself, r4 through psr b10, r6 through psr
b12,b11 (R276, R278). -/
def alsoWrites (i j : Reg) (s : State) : Bool :=
  decide (i = j)
    || (decide (i = .r5) && decide (j = .r4) && fR5to4 s.psr)
    || (decide (i = .r7) && decide (j = .r6) && decide (fR7act s.psr ≠ 0))

/-- Why a write of register `i` has no meaning: it writes the counter register of the active hardware
loop (44_test_branch.md R231 (d); log 29), or its automatic load of r6 collides with the operand's own
use of x0 (R279 (b); log 20). -/
def writeFault (i : Reg) (t : Option Operand) (s : State) : Option Fault :=
  if s.loop.active && alsoWrites i s.loop.reg s then some .counterWrite
  else if decide (i = .r7) && decide (fR7act s.psr = 2) && usesX0 t then some .r6LoadCollision
  else none

/-- Write a register, then go on; a fault ends the instruction. -/
def onWrite (i : Reg) (c : Cplx) (t : Option Operand) (s : State) (k : State → Out) : Out :=
  match writeFault i t s with
  | none => k (writeReg i c t s)
  | some f => .fault f

/-- `MacClear()` (R285). -/
def macClear (s : State) : State :=
  { s with
    mac := { s.mac with a := .zero, b := .zero, q := .zero, r := .zero, lreg := .zero }
    psr := s.psr &&& ~~~0x33000000#32
    flagsWritten := s.flagsWritten ||| 0x33000000#32 }

/-- The counter register becomes unwritten: a free value, in the unit an unspecified one
(44_test_branch.md R225, R231 (d), 47_butterfly_mac.md R271; log 29).
This is no write of the register, so it triggers nothing in the unit; it changes a multiplier input
where the register is r6 or r7. -/
def forgetReg (i : Reg) (s : State) : State :=
  let c := Config.freeCounter s.icount
  match i with
  | .r0 => { s with gpr := { s.gpr with r0 := c } }
  | .r1 => { s with gpr := { s.gpr with r1 := c } }
  | .r2 => { s with gpr := { s.gpr with r2 := c } }
  | .r3 => { s with gpr := { s.gpr with r3 := c } }
  | .r4 => { s with mac := { s.mac with r4in := ⟨c, false⟩ } }
  | .r5 => { s with mac := { s.mac with r5in := ⟨c, false⟩ } }
  | .r6 => { s with mac := { s.mac with r6in := ⟨c, false⟩ }, mulw := some s.icount }
  | .r7 => { s with mac := { s.mac with r7in := ⟨c, false⟩ }, mulw := some s.icount }

/-! The shared shapes of the instructions that compute a register from an operand. -/

/-- `v <- Load(t); u <- r[i]; r[i] <- f u v; Cmpf <- 1; Next()`. -/
def combineMem (f : Cplx → Cplx → Cplx) (i : Reg) (t : Operand) (s : State) : Out :=
  onLoad t s fun v s' => onWrite i (f (readReg i s') v) (some t) s' fun s'' => .next (complete s'')

/-- `v <- Load(t); r[rd] <- f v; Cmpf <- 1; Next()`. -/
def mapMem (f : Cplx → Cplx) (rd : Reg) (t : Operand) (s : State) : Out :=
  onLoad t s fun v s' => onWrite rd (f v) (some t) s' fun s'' => .next (complete s'')

/-- `u <- r[rs]; r[rd] <- f u; Cmpf <- 1; Next()`: the register form (40_operands_and_addressing.md
R139; log 24). -/
def mapReg (f : Cplx → Cplx) (rd rs : Reg) (s : State) : Out :=
  onWrite rd (f (readReg rs s)) none s fun s' => .next (complete s')

/-- A pair of component results. -/
structure AluPair where
  re : AluPart
  im : AluPart
deriving DecidableEq, Repr

def AluPair.value (p : AluPair) : Cplx := ⟨p.re.word, p.im.word⟩

/-- Write a saturating result, set the ALU flags, complete (41_logic_arith.md R166, R169). -/
def writeAlu (rd : Reg) (p : AluPair) (t : Option Operand) (s : State) : Out :=
  onWrite rd p.value t s fun s' => .next (complete (setAluFlags p.re.ovf p.im.ovf s'))

end Sys2Proof.Machine
end

