-- ==== Sys2Proof/Machine/BarPorts.lean ====
section
/-! DEFINITION. bar, ports and control (45_bar_ports_control.md). -/

namespace Sys2Proof.Machine

/-- R240. -/
def execLdsBar (t : Operand) (s : State) : Out :=
  loadAndComplete t s fun v s' => setBar (truncRe 16 v) s'

/-- R241. -/
def execStsBar (t : Operand) (s : State) : Out := storeAndComplete t (cplxOfInt s.bar) s

/-- R242: modulo 2^16. -/
def execAddBar (t : Operand) (s : State) : Out :=
  loadAndComplete t s fun v s' => setBar (s'.bar + truncRe 16 v) s'

/-- `lds.com` after its operand is read: the word goes out when the path is ready (R243). -/
def sendWord (port : Port) (w : W32) (s : State) : State :=
  if outReady port s then complete (setRun .running (portOut port w s))
  else setRun (.waiting (.send port w)) s

/-- R243. -/
def execLdsCom (port : Port) (t : Operand) (s : State) : Out :=
  onLoad t s fun v s' => .next (sendWord port v.re s')

/-- `sts.com`: it stores the environment's word when the path has one, and waits else (R244). -/
def recvWord (port : Port) (t : Operand) (s : State) : Out :=
  if storable t s then
    if inReady port s then
      storeAndComplete t ⟨portIn port s, 0⟩ (setRun .running (emit (.inp port (portIn port s)) s))
    else .next (setRun (.waiting (.recv port t)) s)
  else .fault .illegalInstruction

/-- R244. -/
def execStsCom (port : Port) (t : Operand) (s : State) : Out := recvWord port t s

/-- R245: the low `K_WIDTH` bits. -/
def execCtl (t : Operand) (s : State) : Out :=
  loadAndComplete t s fun v s' => ctlOut (v.re.toNat % 2 ^ s'.cfg.kWidth) s'

/-- R246: `pcr` stays at the `brk`, nothing else changes (log 32). -/
def execBrk (s : State) : Out := .next (setRun .halted s)

/-- One sample of `kin` against the condition `v` (R247; log 31). -/
def pollCond (v : W32) (s : State) : State :=
  if Config.waiCond s.cfg.kWidth (kinWord s) v then complete (setRun .running (emit (.kin (kinWord s)) s))
  else setRun (.waiting (.cond v)) (emit (.kin (kinWord s)) s)

/-- R247: the operand is read once, before waiting. -/
def execWai (t : Operand) (s : State) : Out := onLoad t s fun v s' => .next (pollCond v.re s')

/-- R248. -/
def execFlsWbb (s : State) : Out := .next (complete (emptyWbb s))

/-- One more step of a waiting instruction (R42, R243, R244, R247). -/
def resume (w : Wait) (s : State) : Out :=
  match w with
  | .cond v => .next (pollCond v s)
  | .send port x => .next (sendWord port x s)
  | .recv port t => recvWord port t s

end Sys2Proof.Machine
end

