-- ==== Sys2Proof/Machine/IndexRegs.lean ====
section
/-! DEFINITION. Index register instructions (46_index_registers.md R260 to R266). -/

namespace Sys2Proof.Machine

/-- R260. -/
def execXfrPtr (k : XReg) (r : Reg) (s : State) : Out :=
  .next (complete (setIdx k { getIdx k s with ptr := truncRe 13 (readReg r s) } s))

/-- The `ldx` instructions: refused where the operand itself updates index `k`
(40_operands_and_addressing.md R146; log 25), else `f` puts the low 13 bits in (R266). -/
def loadIndex (k : XReg) (t : Operand) (f : Index13 → Index → Index) (s : State) : Out :=
  if t.legal && updatesIndex t k then .fault .selfConflict
  else loadAndComplete t s fun v s' => setIdx k (f (truncRe 13 v) (getIdx k s')) s'

/-- R261. -/
def execLdxPtr (k : XReg) (t : Operand) (s : State) : Out :=
  loadIndex k t (fun v x => { x with ptr := v }) s

/-- R262: the stored pointer is the one before the operand's update. -/
def execStxPtr (k : XReg) (t : Operand) (s : State) : Out :=
  storeAndComplete t (cplxOfInt (getIdx k s).ptr) s

/-- R263. -/
def execLdxInc (k : XReg) (t : Operand) (s : State) : Out :=
  loadIndex k t (fun v x => { x with inc := v }) s

/-- R264. -/
def execLdxBas (k : XReg) (t : Operand) (s : State) : Out :=
  loadIndex k t (fun v x => { x with bas := v }) s

/-- R265. -/
def execLdxLim (k : XReg) (t : Operand) (s : State) : Out :=
  loadIndex k t (fun v x => { x with lim := v }) s

end Sys2Proof.Machine
end

