-- ==== Sys2Proof/Machine/LoadStore.lean ====
section
/-! DEFINITION. `lda`, `sta`, `lds.psr`, `sts.psr` (43_load_store_status.md). -/

namespace Sys2Proof.Machine

/-- R200. -/
def execLda (i : Reg) (t : Operand) (s : State) : Out := mapMem (fun v => v) i t s

/-- R201. -/
def execSta (i : Reg) (t : Operand) (s : State) : Out := storeAndComplete t (readReg i s) s

/-- The control bits of `w` into psr, and the clear action of b20 (R202, R36). It counts as a change of
a multiplier input (70_reset_and_hazards.md R334, R337). -/
def writePsr (w : W32) (s : State) : State :=
  let s' : State :=
    { s with psr := (s.psr &&& ~~~psrControl) ||| (w &&& psrControl), mulw := some s.icount }
  if w.getLsbD 20 then macClear s' else s'

/-- R202. -/
def execLdsPsr (t : Operand) (s : State) : Out := loadAndComplete t s fun v s' => writePsr v.re s'

/-- R203: the image is read before the store, so b23 is the buffer's state before it. -/
def execStsPsr (t : Operand) (s : State) : Out := storeAndComplete t ⟨psrRead s, 0⟩ s

end Sys2Proof.Machine
end

