-- ==== Sys2Proof/Machine/LogicArith.lean ====
section
/-! DEFINITION. `nop`, logic and arithmetic (41_logic_arith.md). -/

namespace Sys2Proof.Machine

/-- `nop`: the operand's index update and no data access (R161; log 37). -/
def execNop (t : Option Operand) (s : State) : Out :=
  match t with
  | none => .next (complete s)
  | some u => if nopLegal t then .next (complete (update u s)) else .fault .illegalInstruction

/-- R162. -/
def execAnd (i : Reg) (t : Operand) (s : State) : Out :=
  combineMem (fun u v => ⟨u.re &&& v.re, u.im &&& v.im⟩) i t s

/-- R163. -/
def execIor (i : Reg) (t : Operand) (s : State) : Out :=
  combineMem (fun u v => ⟨u.re ||| v.re, u.im ||| v.im⟩) i t s

/-- R164. -/
def execXor (i : Reg) (t : Operand) (s : State) : Out :=
  combineMem (fun u v => ⟨u.re ^^^ v.re, u.im ^^^ v.im⟩) i t s

/-- R166. -/
def execAdd (i : Reg) (t : Operand) (s : State) : Out :=
  onLoad t s fun v s' =>
    writeAlu i ⟨aluAdd (satOn s') (readReg i s').re v.re, aluAdd (satOn s') (readReg i s').im v.im⟩ (some t) s'

/-- R167. -/
def execSub (i : Reg) (t : Operand) (s : State) : Out :=
  onLoad t s fun v s' =>
    writeAlu i ⟨aluSub (satOn s') (readReg i s').re v.re, aluSub (satOn s') (readReg i s').im v.im⟩ (some t) s'

/-- R168: the operand minus the register. -/
def execSbx (i : Reg) (t : Operand) (s : State) : Out :=
  onLoad t s fun v s' =>
    writeAlu i ⟨aluSub (satOn s') v.re (readReg i s').re, aluSub (satOn s') v.im (readReg i s').im⟩ (some t) s'

end Sys2Proof.Machine
end

