-- ==== Sys2Proof/Machine/ShiftSwap.lean ====
section
/-! DEFINITION. Shifts and swap (42_shift_swap.md). -/

namespace Sys2Proof.Machine

/-- R181. -/
def execLdsDsr (t : Operand) (s : State) : Out :=
  loadAndComplete t s fun v s' => setDsr v.re s'

/-- Both components through `SLA_DYN` (R180, R182). -/
def slaDynBoth (s : State) (c : Cplx) : Cplx := ⟨slaDyn s.cfg c.re s.dsr, slaDyn s.cfg c.im s.dsr⟩

/-- R182. -/
def execSlaDynR (rd rs : Reg) (s : State) : Out := mapReg (slaDynBoth s) rd rs s

/-- R184. -/
def execSlaDynT (rd : Reg) (t : Operand) (s : State) : Out := mapMem (slaDynBoth s) rd t s

/-- Both components through `Sll` (R185, R193). -/
def sllBoth (s : State) (n : Count) (c : Cplx) : AluPair := ⟨sll (satOn s) c.re n, sll (satOn s) c.im n⟩

/-- R185. -/
def execSllR (n : Count) (rd rs : Reg) (s : State) : Out :=
  writeAlu rd (sllBoth s n (readReg rs s)) none s

/-- R186. -/
def execSllT (n : Count) (rd : Reg) (t : Operand) (s : State) : Out :=
  onLoad t s fun v s' => writeAlu rd (sllBoth s' n v) (some t) s'

def srlBoth (n : Count) (c : Cplx) : Cplx := ⟨srl c.re n, srl c.im n⟩

/-- R187. -/
def execSrlR (n : Count) (rd rs : Reg) (s : State) : Out := mapReg (srlBoth n) rd rs s

/-- R188. -/
def execSrlT (n : Count) (rd : Reg) (t : Operand) (s : State) : Out := mapMem (srlBoth n) rd t s

def sraBoth (n : Count) (c : Cplx) : Cplx := ⟨sra c.re n, sra c.im n⟩

/-- R189. -/
def execSraR (n : Count) (rd rs : Reg) (s : State) : Out := mapReg (sraBoth n) rd rs s

/-- R190. -/
def execSraT (n : Count) (rd : Reg) (t : Operand) (s : State) : Out := mapMem (sraBoth n) rd t s

def swapParts (c : Cplx) : Cplx := ⟨c.im, c.re⟩

/-- R191. -/
def execSirR (rd rs : Reg) (s : State) : Out := mapReg swapParts rd rs s

/-- R192. -/
def execSirT (rd : Reg) (t : Operand) (s : State) : Out := mapMem swapParts rd t s

end Sys2Proof.Machine
end

