-- ==== Sys2Proof/Machine/TestBranch.lean ====
section
/-! DEFINITION. Tests, branches, loops and subroutines (44_test_branch.md). -/

namespace Sys2Proof.Machine

/-- `v <- Load(t); c <- f r[i] v; Cmpf <- Cmpf AND c; Next()`: the flag is not set to 1 (R210). -/
def testMem (f : Cplx → Cplx → Bool) (i : Reg) (t : Operand) (s : State) : Out :=
  onLoad t s fun v s' => .next (advance (andCmpf (f (readReg i s') v) s'))

/-- R211. -/
def execTeq (i : Reg) (t : Operand) (s : State) : Out := testMem (fun u v => decide (u = v)) i t s

/-- R212. -/
def execTne (i : Reg) (t : Operand) (s : State) : Out := testMem (fun u v => decide (u ≠ v)) i t s

/-- R213; signed, real parts only (log 39). -/
def execTgr (i : Reg) (t : Operand) (s : State) : Out :=
  testMem (fun u v => decide (u.re.toInt > v.re.toInt)) i t s

/-- R214. -/
def execTge (i : Reg) (t : Operand) (s : State) : Out :=
  testMem (fun u v => decide (u.re.toInt ≥ v.re.toInt)) i t s

/-- R215. -/
def execTsm (i : Reg) (t : Operand) (s : State) : Out :=
  testMem (fun u v => decide (u.re.toInt < v.re.toInt)) i t s

/-- R216. -/
def execTse (i : Reg) (t : Operand) (s : State) : Out :=
  testMem (fun u v => decide (u.re.toInt ≤ v.re.toInt)) i t s

/-- R217: any bit of the 64-bit AND. -/
def execTbw (i : Reg) (t : Operand) (s : State) : Out :=
  testMem (fun u v => decide (u.re &&& v.re ≠ 0) || decide (u.im &&& v.im ≠ 0)) i t s

/-- Branch to `a` if `c`, else go on; the flag is set either way. -/
def branchIf (c : Bool) (a : CodeAddr) (s : State) : State := if c then branchTo a s else complete s

/-- R218. -/
def execBrt (j : CodeAddr) (s : State) : Out := .next (branchIf s.cmpf j s)

/-- R219. -/
def execBrf (j : CodeAddr) (s : State) : Out := .next (branchIf (!s.cmpf) j s)

/-- R220. -/
def execBra (j : CodeAddr) (s : State) : Out := .next (branchTo j s)

/-- R221. -/
def execBri (t : Operand) (s : State) : Out := onLoadAddr t s fun a s' => .next (branchTo a s')

/-- Both parts minus 1, wrapping (R222; log 27). -/
def decBoth (c : Cplx) : Cplx := ⟨c.re - 1, c.im - 1⟩

/-- R222: the operand is read whether or not the branch is taken. -/
def execCyc (i : Reg) (t : Operand) (s : State) : Out :=
  onLoadAddr t s fun a s' =>
    onWrite i (decBoth (readReg i s')) (some t) s' fun s'' =>
      .next (branchIf (decide ((decBoth (readReg i s')).re ≠ 0)) a s'')

def biasInt : Config.RptBias → Int
  | .minusOne => -1
  | .zero => 0
  | .plusOne => 1

/-- `C + RPT_BIAS` (R225, R227), `C` an unsigned 32-bit integer. -/
def rptPasses (i : Reg) (s : State) : Int := ((readReg i s).re.toNat : Int) + biasInt s.cfg.rptBias

/-- What R225 and R231 refuse of a `rpt` with end address `e`. -/
def rptFault (i : Reg) (e : CodeAddr) (s : State) : Option Fault :=
  if s.loop.active then some .nestedRepeat
  else if rptPasses i s ≤ 0 ∨ 2 ^ 32 ≤ rptPasses i s then some .repeatCount
  else if e = s.pcr ∨ e = s.pcr + 1 then some .repeatEnd
  else none

/-- The loop that a `rpt` on register `i` with end address `e` starts (R225). -/
def rptLoop (i : Reg) (e : CodeAddr) (s : State) : Loop where
  active := true
  start := s.pcr + 2
  stop := e
  count := BitVec.ofInt 32 (rptPasses i s)
  reg := i

/-- R225: no loop is active before, and the end is not the `rpt` itself, so its own completion is the
plain one. -/
def execRpt (i : Reg) (t : Operand) (s : State) : Out :=
  onLoadAddr t s fun e s' =>
    match rptFault i e s' with
    | some f => .fault f
    | none => .next (complete (setLoop (rptLoop i e s') (forgetReg i s')))

/-- R223: `rsr` receives the address that would follow (R230). -/
def execJsr (j : CodeAddr) (s : State) : Out :=
  .next (branchTo j (setRsr (nextAddress s).1 s))

/-- R224. -/
def execStsRsr (t : Operand) (s : State) : Out := storeAndComplete t (cplxOfInt s.rsr) s

end Sys2Proof.Machine
end

