-- ==== Sys2Proof/Machine/Dispatch.lean ====
section
/-! DEFINITION. `exec`: one arm per constructor of `Instr`, in the order of Table 1 (30_encoding.md R104). -/

namespace Sys2Proof.Machine

def exec (i : Instr) (s : State) : Host.Outcome State Fault Refusal :=
  match i with
  | .nop t => Sys2Proof.Machine.execNop t s
  | .and r t => Sys2Proof.Machine.execAnd r t s
  | .ior r t => Sys2Proof.Machine.execIor r t s
  | .xor r t => Sys2Proof.Machine.execXor r t s
  | .add r t => Sys2Proof.Machine.execAdd r t s
  | .sub r t => Sys2Proof.Machine.execSub r t s
  | .sbx r t => Sys2Proof.Machine.execSbx r t s
  | .ldsDsr t => Sys2Proof.Machine.execLdsDsr t s
  | .slaDynR rd rs => Sys2Proof.Machine.execSlaDynR rd rs s
  | .slaDynT rd t => Sys2Proof.Machine.execSlaDynT rd t s
  | .sllR n rd rs => Sys2Proof.Machine.execSllR n rd rs s
  | .sllT n rd t => Sys2Proof.Machine.execSllT n rd t s
  | .srlR n rd rs => Sys2Proof.Machine.execSrlR n rd rs s
  | .srlT n rd t => Sys2Proof.Machine.execSrlT n rd t s
  | .sraR n rd rs => Sys2Proof.Machine.execSraR n rd rs s
  | .sraT n rd t => Sys2Proof.Machine.execSraT n rd t s
  | .sirR rd rs => Sys2Proof.Machine.execSirR rd rs s
  | .sirT rd t => Sys2Proof.Machine.execSirT rd t s
  | .lda r t => Sys2Proof.Machine.execLda r t s
  | .sta r t => Sys2Proof.Machine.execSta r t s
  | .ldsPsr t => Sys2Proof.Machine.execLdsPsr t s
  | .stsPsr t => Sys2Proof.Machine.execStsPsr t s
  | .teq r t => Sys2Proof.Machine.execTeq r t s
  | .tne r t => Sys2Proof.Machine.execTne r t s
  | .tgr r t => Sys2Proof.Machine.execTgr r t s
  | .tge r t => Sys2Proof.Machine.execTge r t s
  | .tsm r t => Sys2Proof.Machine.execTsm r t s
  | .tse r t => Sys2Proof.Machine.execTse r t s
  | .tbw r t => Sys2Proof.Machine.execTbw r t s
  | .brt j => Sys2Proof.Machine.execBrt j s
  | .brf j => Sys2Proof.Machine.execBrf j s
  | .bra j => Sys2Proof.Machine.execBra j s
  | .bri t => Sys2Proof.Machine.execBri t s
  | .cyc r t => Sys2Proof.Machine.execCyc r t s
  | .rpt r t => Sys2Proof.Machine.execRpt r t s
  | .jsr j => Sys2Proof.Machine.execJsr j s
  | .stsRsr t => Sys2Proof.Machine.execStsRsr t s
  | .ldsBar t => Sys2Proof.Machine.execLdsBar t s
  | .stsBar t => Sys2Proof.Machine.execStsBar t s
  | .addBar t => Sys2Proof.Machine.execAddBar t s
  | .ldsCom port t => Sys2Proof.Machine.execLdsCom port t s
  | .stsCom port t => Sys2Proof.Machine.execStsCom port t s
  | .ctl t => Sys2Proof.Machine.execCtl t s
  | .brk => Sys2Proof.Machine.execBrk s
  | .wai t => Sys2Proof.Machine.execWai t s
  | .xfrPtr x r => Sys2Proof.Machine.execXfrPtr x r s
  | .ldxPtr x t => Sys2Proof.Machine.execLdxPtr x t s
  | .stxPtr x t => Sys2Proof.Machine.execStxPtr x t s
  | .ldxInc x t => Sys2Proof.Machine.execLdxInc x t s
  | .ldxBas x t => Sys2Proof.Machine.execLdxBas x t s
  | .ldxLim x t => Sys2Proof.Machine.execLdxLim x t s
  | .flsWbb => Sys2Proof.Machine.execFlsWbb s

end Sys2Proof.Machine
end

