-- ==== Sys2Proof/Machine/Step.lean ====
section
/-!
DEFINITION. One step of the machine (60_exceptions.md R313): the environment moves first (R301), then a
running processor fetches, decodes and executes, a waiting one goes on waiting, and a halted one makes
no step.
-/

namespace Sys2Proof.Machine

def step (s : State) : Host.Outcome State Fault Refusal :=
  match s.run with
  | .halted => .refused .halted
  | .waiting w => resume w (tick s)
  | .running =>
    match fetch (tick s) with
    | .ok i => exec i (tick s)
    | .error f => .fault f

/-- The state with an instruction placed in the CodeROM at the program counter and the processor
running, so that the next step fetches and runs it (log 10). A CodeROM word is 32 bits. -/
def State.withFetchWord (s : State) (nbits w : Nat) : State :=
  { s with
    code := Memory.insert s.pcr.toNat (BitVec.ofNat 32 (w % 2 ^ nbits)) s.code
    run := .running }

end Sys2Proof.Machine
end

