-- ==== Sys2Proof/Safety.lean ====
section
/-!
DEFINITION. The terms claims are stated in: what an instruction names (its destination register, its
memory operand, the operand it stores to), and the invariant of every state a step can give.
-/

namespace Sys2Proof

/-- The complex register an instruction writes with a result. (`rpt` writes none: it leaves its counter
register without a value, 44_test_branch.md R231 (d).) -/
def Instr.dest : Instr → Option Reg
  | .nop _ => none
  | .and r _ | .ior r _ | .xor r _ | .add r _ | .sub r _ | .sbx r _ => some r
  | .ldsDsr _ => none
  | .slaDynR rd _ | .slaDynT rd _ => some rd
  | .sllR _ rd _ | .sllT _ rd _ | .srlR _ rd _ | .srlT _ rd _ | .sraR _ rd _ | .sraT _ rd _ => some rd
  | .sirR rd _ | .sirT rd _ => some rd
  | .lda r _ => some r
  | .sta _ _ => none
  | .ldsPsr _ | .stsPsr _ => none
  | .teq _ _ | .tne _ _ | .tgr _ _ | .tge _ _ | .tsm _ _ | .tse _ _ | .tbw _ _ => none
  | .brt _ | .brf _ | .bra _ | .bri _ => none
  | .cyc r _ => some r
  | .rpt _ _ => none
  | .jsr _ | .stsRsr _ => none
  | .ldsBar _ | .stsBar _ | .addBar _ => none
  | .ldsCom _ _ | .stsCom _ _ | .ctl _ | .brk | .wai _ => none
  | .xfrPtr _ _ | .ldxPtr _ _ | .stxPtr _ _ | .ldxInc _ _ | .ldxBas _ _ | .ldxLim _ _ => none
  | .flsWbb => none

/-- The memory operand `t` of an instruction (30_encoding.md R104). -/
def Instr.memOperand : Instr → Option Operand
  | .nop t => t
  | .and _ t | .ior _ t | .xor _ t | .add _ t | .sub _ t | .sbx _ t => some t
  | .ldsDsr t => some t
  | .slaDynR _ _ | .sllR _ _ _ | .srlR _ _ _ | .sraR _ _ _ | .sirR _ _ => none
  | .slaDynT _ t | .sllT _ _ t | .srlT _ _ t | .sraT _ _ t | .sirT _ t => some t
  | .lda _ t | .sta _ t => some t
  | .ldsPsr t | .stsPsr t => some t
  | .teq _ t | .tne _ t | .tgr _ t | .tge _ t | .tsm _ t | .tse _ t | .tbw _ t => some t
  | .brt _ | .brf _ | .bra _ | .jsr _ => none
  | .bri t | .cyc _ t | .rpt _ t => some t
  | .stsRsr t | .ldsBar t | .stsBar t | .addBar t => some t
  | .ldsCom _ t | .stsCom _ t | .ctl t | .wai t => some t
  | .brk | .flsWbb => none
  | .xfrPtr _ _ => none
  | .ldxPtr _ t | .stxPtr _ t | .ldxInc _ t | .ldxBas _ t | .ldxLim _ t => some t

/-- The operand an instruction stores to (30_encoding.md R106). -/
def Instr.storeOperand : Instr → Option Operand
  | .sta _ t | .stsPsr t | .stsRsr t | .stsBar t | .stsCom _ t | .stxPtr _ t => some t
  | .nop _ | .and _ _ | .ior _ _ | .xor _ _ | .add _ _ | .sub _ _ | .sbx _ _ | .ldsDsr _ => none
  | .slaDynR _ _ | .slaDynT _ _ | .sllR _ _ _ | .sllT _ _ _ | .srlR _ _ _ | .srlT _ _ _ => none
  | .sraR _ _ _ | .sraT _ _ _ | .sirR _ _ | .sirT _ _ | .lda _ _ | .ldsPsr _ => none
  | .teq _ _ | .tne _ _ | .tgr _ _ | .tge _ _ | .tsm _ _ | .tse _ _ | .tbw _ _ => none
  | .brt _ | .brf _ | .bra _ | .bri _ | .cyc _ _ | .rpt _ _ | .jsr _ => none
  | .ldsBar _ | .addBar _ | .ldsCom _ _ | .ctl _ | .brk | .wai _ => none
  | .xfrPtr _ _ | .ldxPtr _ _ | .ldxInc _ _ | .ldxBas _ _ | .ldxLim _ _ | .flsWbb => none

/-- The seven test instructions (44_test_branch.md R210). -/
def Instr.isTest : Instr → Bool
  | .teq _ _ | .tne _ _ | .tgr _ _ | .tge _ _ | .tsm _ _ | .tse _ _ | .tbw _ _ => true
  | .nop _ | .and _ _ | .ior _ _ | .xor _ _ | .add _ _ | .sub _ _ | .sbx _ _ | .ldsDsr _ => false
  | .slaDynR _ _ | .slaDynT _ _ | .sllR _ _ _ | .sllT _ _ _ | .srlR _ _ _ | .srlT _ _ _ => false
  | .sraR _ _ _ | .sraT _ _ _ | .sirR _ _ | .sirT _ _ | .lda _ _ | .sta _ _ => false
  | .ldsPsr _ | .stsPsr _ | .brt _ | .brf _ | .bra _ | .bri _ | .cyc _ _ | .rpt _ _ | .jsr _ => false
  | .stsRsr _ | .ldsBar _ | .stsBar _ | .addBar _ | .ldsCom _ _ | .stsCom _ _ | .ctl _ => false
  | .brk | .wai _ | .xfrPtr _ _ | .ldxPtr _ _ | .stxPtr _ _ | .ldxInc _ _ => false
  | .ldxBas _ _ | .ldxLim _ _ | .flsWbb => false

/-- The instructions psr b21 names: `add`, `sub`, `sbx`, `sll.n` (41_logic_arith.md R169). -/
def Instr.isAlu : Instr → Bool
  | .add _ _ | .sub _ _ | .sbx _ _ | .sllR _ _ _ | .sllT _ _ _ => true
  | .nop _ | .and _ _ | .ior _ _ | .xor _ _ | .ldsDsr _ | .slaDynR _ _ | .slaDynT _ _ => false
  | .srlR _ _ _ | .srlT _ _ _ | .sraR _ _ _ | .sraT _ _ _ | .sirR _ _ | .sirT _ _ => false
  | .lda _ _ | .sta _ _ | .ldsPsr _ | .stsPsr _ => false
  | .teq _ _ | .tne _ _ | .tgr _ _ | .tge _ _ | .tsm _ _ | .tse _ _ | .tbw _ _ => false
  | .brt _ | .brf _ | .bra _ | .bri _ | .cyc _ _ | .rpt _ _ | .jsr _ => false
  | .stsRsr _ | .ldsBar _ | .stsBar _ | .addBar _ | .ldsCom _ _ | .stsCom _ _ | .ctl _ => false
  | .brk | .wai _ | .xfrPtr _ _ | .ldxPtr _ _ | .stxPtr _ _ | .ldxInc _ _ => false
  | .ldxBas _ _ | .ldxLim _ _ | .flsWbb => false

namespace Machine

/-- The three memories are in canonical form. -/
abbrev State.memoriesCanonical (s : State) : Prop :=
  Memory.wf (ramEntryOk s.cfg.ramInt) s.ram = true ∧
    Memory.wf (romEntryOk s.cfg.romInt) s.rom = true ∧
    Memory.wf codeEntryOk s.code = true

/-- psr stores its control and flag bits only, and a flag nothing has written is stored 0. -/
abbrev State.psrStored (s : State) : Prop :=
  s.psr &&& ~~~(psrControl ||| (psrFlags &&& s.flagsWritten)) = 0 ∧ s.flagsWritten &&& ~~~psrFlags = 0

/-- An active hardware loop has passes left (44_test_branch.md R229). -/
abbrev State.loopCounts (s : State) : Prop := s.loop.active = true → s.loop.count ≠ 0

/-- The last change of a multiplier input lies before the executing instruction
(70_reset_and_hazards.md R334). -/
abbrev State.multiplierPast (s : State) : Prop := ∀ w ∈ s.mulw, w < s.icount

/-- A waiting `sts.com` waits with an operand it may store to (30_encoding.md R106). -/
abbrev State.waitLegal (s : State) : Prop :=
  match s.run with
  | .waiting (.recv _ t) => storable t s = true
  | _ => True

/-- `kout` has `K_WIDTH` bits (10_state.md R38). -/
abbrev State.koutFits (s : State) : Prop := s.ports.kout < 2 ^ s.cfg.kWidth

/-- What holds of every state that steps give, from any state in which it holds. -/
structure State.Inv (s : State) : Prop where
  memories : s.memoriesCanonical
  psr : s.psrStored
  loop : s.loopCounts
  multiplier : s.multiplierPast
  waiting : s.waitLegal
  kout : s.koutFits

end Machine

end Sys2Proof
end

