-- ==== Sys2Proof/Certificates/Slice0/Obligations.lean ====
section
/-!
DEFINITION. The statements for the provers, each a rule of spec/ or what follows from rules. They speak
of every form the spec gives an instruction: of all eight complex registers, through `readReg` and
`writeReg`, of every legal operand, through `locate`, `readLoc` and `update`, and of every value of the
open parameters, through `State.cfg`. A free value is left as it is: no statement fixes one.

"The operand is readable with value v" is written `readable t s = true` (a legal form, whose address field
fits `P_DIRECT_ADDR_BITS`) and `readLoc (locate t s) s = some v`; "nothing forbids the write" is
`writeFault i (some t) s = none`, whose two causes `RegisterWriteRefusals` states.
-/

open Sys2Proof Sys2Proof.Machine

/-! ## Encoding (30_encoding.md) -/

/-- Words written out from the fields of R111 decode to their instructions, one of each shape. The
encoding is the spec's own reference encoding, not the chip's (D2, log 1). -/
def Obligations.SampleWordsDecode : Prop :=
  decode 0x00000000#32 = .ok (.nop none) ∧
  decode 0x0010C000#32 = .ok (.nop (some (.indexed .x1 .dec false))) ∧
  decode 0x058C0007#32 = .ok (.and .r3 (.ramDirect 7 false)) ∧
  decode 0x20040000#32 = .ok (.slaDynR .r0 .r0) ∧
  decode 0x28C40000#32 = .ok (.sllR .two .r1 .r0) ∧
  decode 0x4E116000#32 = .ok (.sta .r4 (.indexed .x2 .rev false)) ∧
  decode 0x74140010#32 = .ok (.brt 0x10) ∧
  decode 0x850C0003#32 = .ok (.cyc .r2 (.ramDirect 3 false)) ∧
  decode 0xA08C0007#32 = .ok (.ldsCom .p1 (.ramDirect 7 false)) ∧
  decode 0xB5840002#32 = .ok (.xfrPtr .x3 .r2) ∧
  decode 0xBC90A000#32 = .ok (.stxPtr .x1 (.indexed .x1 .inc false)) ∧
  decode 0xCC000000#32 = .ok .flsWbb

/-- Decode and encode agree (R113, the spec's reference encoding, log 1): every legal term is what its
word decodes to. -/
def Obligations.DecodeOfEncode : Prop :=
  ∀ i : Instr, i.wellFormed = true → decode (encode i) = .ok i

/-- R113: decode then encode is the identity on legal words (log 1), and a word decodes to legal
terms only. -/
def Obligations.EncodeOfDecode : Prop :=
  ∀ (w : W32) (i : Instr), decode w = .ok i → i.wellFormed = true ∧ encode i = w

/-! ## The step (60_exceptions.md R302, R313, 20_memory.md R62) -/

/-- A running processor executes the instruction its CodeROM word decodes to (the word is of the reference
encoding, log 1), in the state the environment's next move leaves. The move is the model's choice (log 30):
before a step the pins become the first entry of State.env, which is used up, and nothing else changes. -/
def Obligations.StepRunsDecodedInstruction : Prop :=
  (∀ (s : State) (w : W32) (i : Instr), s.run = .running → Memory.lookup s.pcr.toNat s.code = some w →
    decode w = .ok i → step s = exec i (tick s)) ∧
  (∀ s : State, s.env = [] → tick s = s) ∧
  (∀ (s : State) (p : Pins) (rest : List Pins), s.env = p :: rest → tick s = { s with pins := p, env := rest })

/-- A fetch where nothing is placed, or of a word that does not decode, is an illegal instruction; a
waiting processor goes on waiting; a halted one makes no step (log 10, 26, 32). -/
def Obligations.StepWithoutInstruction : Prop :=
  (∀ s : State, s.run = .running → Memory.lookup s.pcr.toNat s.code = none → step s = .fault .illegalInstruction) ∧
  (∀ (s : State) (w : W32) (e : Illegal), s.run = .running → Memory.lookup s.pcr.toNat s.code = some w →
    decode w = .error e → step s = .fault .illegalInstruction) ∧
  (∀ (s : State) (w : Wait), s.run = .waiting w → step s = resume w (tick s)) ∧
  (∀ s : State, s.run = .halted → step s = .refused .halted)

/-- Every illegal term is an illegal instruction (log 26), and so is one whose RAM address does not fit the
address field of `P_DIRECT_ADDR_BITS` bits (log 3). -/
def Obligations.IllegalTermFaults : Prop :=
  ∀ (i : Instr) (s : State),
    (i.wellFormed = false ∨ ∃ t, i.memOperand = some t ∧ t.fits s.cfg.directBits = false) →
    exec i s = .fault .illegalInstruction

/-! ## Operands (40_operands_and_addressing.md) -/

/-- `Locate` (R132 to R135, R138, R140), addresses as numbers: unbiased RAM addresses are
zero-extended, biased ones add a signed offset to `bar` modulo 2^16 (log 23); the offset of the direct form
has `P_DIRECT_ADDR_BITS` bits (log 3). -/
def Obligations.OperandLocations : Prop :=
  ∀ (s : State) (a : Index13) (u : Upd) (k : XReg),
    locate (.romDirect a) s = .rom a ∧
    locate (.indexed .x0 u false) s = .rom (getIdx .x0 s).ptr ∧
    (∃ r, locate (.ramDirect a false) s = .ram r ∧ r.toNat = a.toNat) ∧
    (∃ r, locate (.ramDirect a true) s = .ram r ∧
      (r.toNat : Int) = (s.bar.toNat + (a.setWidth s.cfg.directBits).toInt) % 65536) ∧
    (k ≠ .x0 → ∃ r, locate (.indexed k u false) s = .ram r ∧ r.toNat = (getIdx k s).ptr.toNat) ∧
    (k ≠ .x0 → ∃ r, locate (.indexed k u true) s = .ram r ∧
      (r.toNat : Int) = (s.bar.toNat + (getIdx k s).ptr.toInt) % 65536)

/-- Post-increment and post-decrement (R136; the modulus 2^13 is D5, log 23), every index register, biased
or not. -/
def Obligations.PostIncrementDecrement : Prop :=
  ∀ (k : XReg) (biased : Bool) (s : State),
    let x := getIdx k s
    let inc := getIdx k (update (.indexed k .inc biased) s)
    let dec := getIdx k (update (.indexed k .dec biased) s)
    (x.ptr = x.lim → inc.ptr = x.bas ∧ dec.ptr = x.bas) ∧
    (x.ptr ≠ x.lim → inc.ptr.toNat = (x.ptr.toNat + x.inc.toNat) % 8192 ∧
      (dec.ptr.toNat : Int) = ((x.ptr.toNat : Int) - x.inc.toNat) % 8192)

/-- The bit-reversed update (R137, R148) on x1 to x3 (log 40): the reversed sum, its carry, the limit
added where it carries. -/
def Obligations.BitReversedUpdate : Prop :=
  (∀ (v : Index13) (i : Nat), i < 13 → (bitRev13 v).getLsbD i = v.getLsbD (12 - i)) ∧
  ∀ (k : XReg) (biased : Bool) (s : State), k ≠ .x0 →
    let x := getIdx k s
    let sum := (bitRev13 x.ptr).toNat + (bitRev13 x.inc).toNat
    let y := bitRev13 (BitVec.ofNat 13 sum)
    (getIdx k (update (.indexed k .rev biased) s)).ptr = if 8192 ≤ sum then y + x.lim else y

/-- What an operand's update leaves alone: everything but the index registers, every other index
register, and of its own everything but the pointer; a form without `+`, `-`, `*` changes nothing
(R138, R140). -/
def Obligations.UpdateFrame : Prop :=
  ∀ (t : Operand) (s : State),
    update t s = { s with idx := (update t s).idx } ∧
    (∀ k, (getIdx k (update t s)).inc = (getIdx k s).inc ∧ (getIdx k (update t s)).bas = (getIdx k s).bas ∧
      (getIdx k (update t s)).lim = (getIdx k s).lim) ∧
    (∀ k, updatesIndex t k = false → getIdx k (update t s) = getIdx k s) ∧
    ((∀ k, updatesIndex t k = false) → update t s = s)

/-! ## Memory (20_memory.md) -/

/-- `RomRead` (R66): an integer word reads with imaginary part 0, a complex word as placed. `RamWrite`
then `RamRead` (R67, R68): a complex word comes back whole, an integer word as its real part with
imaginary part 0, and every other word reads as before. -/
def Obligations.MemoryReads : Prop :=
  (∀ (a : Index13) (c : Cplx) (s : State), Memory.lookup a.toNat s.rom = some c →
    (isInteger s.cfg.romInt a.toNat = false → romRead a s = c) ∧
    (isInteger s.cfg.romInt a.toNat = true → romRead a s = ⟨c.re, 0⟩)) ∧
  ∀ (a : RamAddr) (c : Cplx) (s : State),
    (isInteger s.cfg.ramInt a.toNat = false → ramRead a (ramWrite a c s) = some c) ∧
    (isInteger s.cfg.ramInt a.toNat = true → ramRead a (ramWrite a c s) = some ⟨c.re, 0⟩) ∧
    ∀ b, b ≠ a → ramRead b (ramWrite a c s) = ramRead b s

/-- A RAM word that nothing has written faults on every read through a legal operand (R67), whichever
instruction reads it; only an `ldx` that updates its own index stops earlier (40 R146). -/
def Obligations.UnwrittenReadFaults : Prop :=
  ∀ (i : Instr) (t : Operand) (a : RamAddr) (s : State), readable t s = true → i.memOperand = some t →
    i.storeOperand = none → (∀ u, i ≠ .nop u) →
    (∀ k, i = .ldxPtr k t ∨ i = .ldxInc k t ∨ i = .ldxBas k t ∨ i = .ldxLim k t → updatesIndex t k = false) →
    locate t s = .ram a → Memory.lookup a.toNat s.ram = none → exec i s = .fault .unwrittenRead

/-- A stored integer register comes back exactly (R14, 44_test_branch.md R224, 45 R241, 46 R262): the
stored word is sign-extended and its low bits are the register. -/
def Obligations.IntegerRegisterRoundTrip : Prop :=
  (∀ v : Index13, truncRe 13 (cplxOfInt v) = v ∧ (cplxOfInt v).re.toInt = v.toInt ∧ (cplxOfInt v).im = 0) ∧
  (∀ v : CodeAddr, truncRe 14 (cplxOfInt v) = v ∧ (cplxOfInt v).re.toInt = v.toInt ∧ (cplxOfInt v).im = 0) ∧
  (∀ v : RamAddr, truncRe 16 (cplxOfInt v) = v ∧ (cplxOfInt v).re.toInt = v.toInt ∧ (cplxOfInt v).im = 0)

/-! ## Completion and the hardware loop (44_test_branch.md R229, R230) -/

/-- Completion: the next address is the following one modulo 2^14, but at the end of an active hardware
loop, where the count goes down and the loop starts again or ends; and the three ends of an instruction,
as whole states: `Cmpf <- 1; Next()`, `Next()` alone (the tests), and `Cmpf <- 1; Goto(a)`, whose loop-end
check is made all the same (R229, R230; log 21). -/
def Obligations.InstructionEnds : Prop :=
  ∀ (s : State) (a : CodeAddr),
    (¬ (s.loop.active = true ∧ s.pcr = s.loop.stop) → nextAddress s = (s.pcr + 1, s.loop)) ∧
    (s.loop.active = true → s.pcr = s.loop.stop → s.loop.count ≠ 1 →
      nextAddress s = (s.loop.start, { s.loop with count := s.loop.count - 1 })) ∧
    (s.loop.active = true → s.pcr = s.loop.stop → s.loop.count = 1 →
      nextAddress s = (s.pcr + 1, { s.loop with count := 0, active := false })) ∧
    complete s = { s with cmpf := true, pcr := (nextAddress s).1, loop := (nextAddress s).2, icount := s.icount + 1 } ∧
    advance s = { s with pcr := (nextAddress s).1, loop := (nextAddress s).2, icount := s.icount + 1 } ∧
    branchTo a s = { s with cmpf := true, pcr := a, loop := (nextAddress s).2, icount := s.icount + 1 }

/-! ## nop, logic and arithmetic (41_logic_arith.md) -/

/-- `nop` completes on both its forms, with the index update and no data access (R161; log 37). -/
def Obligations.NopCompletes : Prop :=
  ∀ s : State, exec (.nop none) s = .next (complete s) ∧
    ∀ (k : XReg) (u : Upd) (biased : Bool), (Operand.indexed k u biased).legal = true →
      exec (.nop (some (.indexed k u biased))) s = .next (complete (updateIdx k u s))

/-- `and`, `ior`, `xor` complete with the bitwise result, component by component (R162 to R164). -/
def Obligations.LogicCompletes : Prop :=
  ∀ (i : Reg) (t : Operand) (v : Cplx) (s : State), readable t s = true → readLoc (locate t s) s = some v →
    writeFault i (some t) s = none →
    let u := readReg i s
    exec (.and i t) s = .next (complete (writeReg i ⟨u.re &&& v.re, u.im &&& v.im⟩ (some t) (update t s))) ∧
    exec (.ior i t) s = .next (complete (writeReg i ⟨u.re ||| v.re, u.im ||| v.im⟩ (some t) (update t s))) ∧
    exec (.xor i t) s = .next (complete (writeReg i ⟨u.re ^^^ v.re, u.im ^^^ v.im⟩ (some t) (update t s)))

/-- `add`, `sub`, `sbx` complete with the ALU's component results and the ALU flags (R166 to R169; wrap,
saturation and flags are the spec's own choice, D8 and D9, log 13 and 22). -/
def Obligations.ArithmeticCompletes : Prop :=
  ∀ (i : Reg) (t : Operand) (v : Cplx) (s : State), readable t s = true → readLoc (locate t s) s = some v →
    writeFault i (some t) s = none →
    let u := readReg i s
    let sat := s.psr.getLsbD 21
    let done (re im : AluPart) :=
      Host.Outcome.next (φ := Fault) (ρ := Refusal)
        (complete (setAluFlags re.ovf im.ovf (writeReg i ⟨re.word, im.word⟩ (some t) (update t s))))
    exec (.add i t) s = done (aluAdd sat u.re v.re) (aluAdd sat u.im v.im) ∧
    exec (.sub i t) s = done (aluSub sat u.re v.re) (aluSub sat u.im v.im) ∧
    exec (.sbx i t) s = done (aluSub sat v.re u.re) (aluSub sat v.im u.im)

/-- The component adder and the static left shift (R165, 42_shift_swap.md R193; log 22): with psr b21
off two's complement wrap, with psr b21 on the nearest value of the range; `ovf` says the exact result
lies outside the range. -/
def Obligations.AluComponentRule : Prop :=
  ∀ (a b : W32) (n : Count),
    let nearest (x : Int) := max (-2 ^ 31) (min x (2 ^ 31 - 1))
    let outside (x : Int) := x < -2 ^ 31 ∨ 2 ^ 31 - 1 < x
    (aluAdd false a b).word = a + b ∧ (aluAdd true a b).word.toInt = nearest (a.toInt + b.toInt) ∧
    (∀ sat, (aluAdd sat a b).ovf = true ↔ outside (a.toInt + b.toInt)) ∧
    (aluSub false a b).word = a - b ∧ (aluSub true a b).word.toInt = nearest (a.toInt - b.toInt) ∧
    (∀ sat, (aluSub sat a b).ovf = true ↔ outside (a.toInt - b.toInt)) ∧
    (sll false a n).word = a <<< countNat n ∧
    (sll true a n).word.toInt = nearest (a.toInt * 2 ^ countNat n) ∧
    (∀ sat, (sll sat a n).ovf = true ↔ outside (a.toInt * 2 ^ countNat n))

/-- `AluFlags` (R169): with psr b21 on b31 and b30 become the overflows; whatever b21 is, nothing but
those two bits changes, and a read no longer draws them (log 6, 13). -/
def Obligations.AluFlagsRule : Prop :=
  ∀ (ovr ovi : Bool) (s : State),
    let s' := setAluFlags ovr ovi s
    (s.psr.getLsbD 21 = true → s'.psr.getLsbD 31 = ovr ∧ s'.psr.getLsbD 30 = ovi) ∧
    (∀ n, n < 30 → s'.psr.getLsbD n = s.psr.getLsbD n) ∧
    s' = { s with psr := s'.psr, flagsWritten := s.flagsWritten ||| 0xC0000000#32 }

/-! ## Shifts and swap (42_shift_swap.md) -/

/-- The static shifts, register and location form, complete (R185 to R190; log 24); as numbers, `srl`
divides the unsigned word and `sra` the signed word, rounding toward minus infinity (R187, R189). -/
def Obligations.StaticShiftsComplete : Prop :=
  (∀ (n : Count) (rd rs : Reg) (t : Operand) (v : Cplx) (s : State),
    let u := readReg rs s
    let sat := s.psr.getLsbD 21
    (writeFault rd none s = none →
      exec (.sllR n rd rs) s = .next (complete (setAluFlags (sll sat u.re n).ovf (sll sat u.im n).ovf
        (writeReg rd ⟨(sll sat u.re n).word, (sll sat u.im n).word⟩ none s))) ∧
      exec (.srlR n rd rs) s = .next (complete (writeReg rd ⟨srl u.re n, srl u.im n⟩ none s)) ∧
      exec (.sraR n rd rs) s = .next (complete (writeReg rd ⟨sra u.re n, sra u.im n⟩ none s))) ∧
    (readable t s = true → readLoc (locate t s) s = some v → writeFault rd (some t) s = none →
      exec (.sllT n rd t) s = .next (complete (setAluFlags (sll sat v.re n).ovf (sll sat v.im n).ovf
        (writeReg rd ⟨(sll sat v.re n).word, (sll sat v.im n).word⟩ (some t) (update t s)))) ∧
      exec (.srlT n rd t) s = .next (complete (writeReg rd ⟨srl v.re n, srl v.im n⟩ (some t) (update t s))) ∧
      exec (.sraT n rd t) s =
        .next (complete (writeReg rd ⟨sra v.re n, sra v.im n⟩ (some t) (update t s))))) ∧
  ∀ v : W32,
    (srl v .one).toNat = v.toNat / 2 ∧ (srl v .two).toNat = v.toNat / 4 ∧
    (sra v .one).toInt = v.toInt / 2 ∧ (sra v .two).toInt = v.toInt / 4

/-- `sla.dyn`, both forms, completes for every `dsr`, with one function of the component and `dsr`, the
parameter SLA_DYN (R182 to R184). Where that is the instance R183 suggests: its value for amounts -31 to
31; outside them the value is left open (DESIGN CHOICE, log 15). -/
def Obligations.DynamicShiftCompletes : Prop :=
  (∀ (rd rs : Reg) (t : Operand) (v : Cplx) (s : State),
    let u := readReg rs s
    (writeFault rd none s = none → exec (.slaDynR rd rs) s =
      .next (complete (writeReg rd ⟨slaDyn s.cfg u.re s.dsr, slaDyn s.cfg u.im s.dsr⟩ none s))) ∧
    (readable t s = true → readLoc (locate t s) s = some v → writeFault rd (some t) s = none →
      exec (.slaDynT rd t) s =
        .next (complete (writeReg rd ⟨slaDyn s.cfg v.re s.dsr, slaDyn s.cfg v.im s.dsr⟩ (some t) (update t s))))) ∧
  ∀ (p : Config.Params) (v d : W32), p.slaDyn = .suggested →
    (0 ≤ d.toInt → d.toInt ≤ 31 → slaDyn p v d = v <<< d.toInt.toNat) ∧
    (-31 ≤ d.toInt → d.toInt ≤ -1 → (slaDyn p v d).toInt = v.toInt / (2 : Int) ^ (-d.toInt).toNat)

/-- `sir`, both forms, completes with the parts exchanged (R191, R192; `rd` other than `rs` is D6, log 24). -/
def Obligations.SwapCompletes : Prop :=
  ∀ (rd rs : Reg) (t : Operand) (v : Cplx) (s : State),
    (writeFault rd none s = none → exec (.sirR rd rs) s =
      .next (complete (writeReg rd ⟨(readReg rs s).im, (readReg rs s).re⟩ none s))) ∧
    (readable t s = true → readLoc (locate t s) s = some v → writeFault rd (some t) s = none →
      exec (.sirT rd t) s = .next (complete (writeReg rd ⟨v.im, v.re⟩ (some t) (update t s))))

/-! ## Load, store and psr (43_load_store_status.md) -/

/-- `lda` completes with both components of the operand (R200), `lds.dsr` with all 32 bits of its real
part and nothing of its imaginary part (42_shift_swap.md R181). -/
def Obligations.LoadsComplete : Prop :=
  ∀ (i : Reg) (t : Operand) (v : Cplx) (s : State), readable t s = true → readLoc (locate t s) s = some v →
    (writeFault i (some t) s = none →
      exec (.lda i t) s = .next (complete (writeReg i v (some t) (update t s)))) ∧
    exec (.ldsDsr t) s = .next (complete { update t s with dsr := v.re })

/-- Every store completes on every RAM form (R201, R203, R224, R241, R262): the value the rule names goes
to the word the operand locates, before the operand's own update; a register narrower than 32 bits is
sign-extended with imaginary part 0 (log 23, 43). -/
def Obligations.StoresComplete : Prop :=
  ∀ (i : Reg) (k : XReg) (t : Operand) (a : RamAddr) (s : State), storable t s = true → locate t s = .ram a →
    exec (.sta i t) s = .next (complete (update t (ramWrite a (readReg i s) s))) ∧
    exec (.stsPsr t) s = .next (complete (update t (ramWrite a ⟨psrRead s, 0⟩ s))) ∧
    exec (.stsRsr t) s = .next (complete (update t (ramWrite a ⟨s.rsr.signExtend 32, 0⟩ s))) ∧
    exec (.stsBar t) s = .next (complete (update t (ramWrite a ⟨s.bar.signExtend 32, 0⟩ s))) ∧
    exec (.stxPtr k t) s = .next (complete (update t (ramWrite a ⟨(getIdx k s).ptr.signExtend 32, 0⟩ s)))

/-- Every instruction that stores, on every RAM form, where it completes (`sts.com` when its path is
ready): the stored word is the one its operand locates, every other RAM word reads as before, no register
changes but the pointer of the operand's own index and `Cmpf`, and the write-back buffer may hold a store
(R79, R142). `StoresComplete` and `ReceiveCompletes` give the stored value. -/
def Obligations.StoreFrame : Prop :=
  ∀ (i : Instr) (t : Operand) (a : RamAddr) (s s' : State), i.storeOperand = some t → locate t s = .ram a →
    s.run = .running → exec i s = .next s' → s'.run = .running →
    (∀ b, b ≠ a → ramRead b s' = ramRead b s) ∧ (ramRead a s').isSome = true ∧
    s' = { s with ram := s'.ram, wbbEmpty := false, idx := (update t s).idx, trace := s'.trace, cmpf := true,
                  pcr := (nextAddress s).1, loop := (nextAddress s).2, icount := s.icount + 1 }

/-- `lds.psr` completes (R202): every control bit takes the written bit, every other stored bit stays
unless the written b20 clears it, and with b20 written 0 the whole Butterfly/MAC unit stays; b20 written 1 is
`MacClear()`, and the write counts as a change of a multiplier input (log 19, 38). -/
def Obligations.LoadPsrCompletes : Prop :=
  ∀ (t : Operand) (v : Cplx) (s : State), readable t s = true → readLoc (locate t s) s = some v →
    exec (.ldsPsr t) s = .next (complete (writePsr v.re (update t s))) ∧
    (∀ n, n < 20 ∨ n = 21 → (writePsr v.re s).psr.getLsbD n = v.re.getLsbD n) ∧
    (v.re.getLsbD 20 = false → (writePsr v.re s).mac = s.mac ∧ (writePsr v.re s).flagsWritten = s.flagsWritten ∧
      ∀ n, n = 20 ∨ 22 ≤ n → (writePsr v.re s).psr.getLsbD n = s.psr.getLsbD n) ∧
    (v.re.getLsbD 20 = true → (writePsr v.re s).mac = (macClear s).mac ∧
      (writePsr v.re s).flagsWritten = (macClear s).flagsWritten ∧
      ∀ n, n = 20 ∨ 22 ≤ n → (writePsr v.re s).psr.getLsbD n = (macClear s).psr.getLsbD n) ∧
    (writePsr v.re s).mulw = some s.icount

/-- The image `sts.psr` stores, bit by bit (10_state.md R35; log 6, 14), for every value of the drawn
bits: control bits as stored, b20 as 0, b23 as 1 while no RAM store is pending, a flag as stored once
something has written it. -/
def Obligations.PsrImage : Prop :=
  ∀ s : State,
    (∀ n, n < 20 ∨ n = 21 → (psrRead s).getLsbD n = s.psr.getLsbD n) ∧
    (psrRead s).getLsbD 20 = false ∧
    (s.wbbEmpty = true → (psrRead s).getLsbD 23 = true) ∧
    (∀ n, psrFlags.getLsbD n = true → s.flagsWritten.getLsbD n = true →
      (psrRead s).getLsbD n = s.psr.getLsbD n)

/-- `MacClear()` (47_butterfly_mac.md R285): the five internal registers and the four accumulation flags
are cleared, and read so from then on (log 6, 38); the input latches and every other bit and field stay.
`lds.psr` performs it when b20 of the written value is 1, and the control bits of that value take effect in
the same instruction; b20 reads 0. -/
def Obligations.MacClearEffect : Prop :=
  ∀ s : State,
    let s' := macClear s
    s'.mac = { s.mac with a := .zero, b := .zero, q := .zero, r := .zero, lreg := .zero } ∧
    (∀ n, n = 24 ∨ n = 25 ∨ n = 28 ∨ n = 29 → s'.psr.getLsbD n = false) ∧
    (∀ n, n ≠ 24 → n ≠ 25 → n ≠ 28 → n ≠ 29 → s'.psr.getLsbD n = s.psr.getLsbD n) ∧
    s'.flagsWritten = s.flagsWritten ||| 0x33000000#32 ∧
    (∀ n, n = 24 ∨ n = 25 ∨ n = 28 ∨ n = 29 → (psrRead s').getLsbD n = false) ∧
    s' = { s with mac := s'.mac, psr := s'.psr, flagsWritten := s'.flagsWritten } ∧
    (psrRead s).getLsbD 20 = false ∧
    ∀ (t : Operand) (v : Cplx), readable t s = true → readLoc (locate t s) s = some v → v.re.getLsbD 20 = true →
      ∃ s'', exec (.ldsPsr t) s = .next s'' ∧ s''.mac = s'.mac ∧ s''.flagsWritten = s'.flagsWritten ∧
        (∀ n, n = 24 ∨ n = 25 ∨ n = 28 ∨ n = 29 → s''.psr.getLsbD n = false) ∧
        ∀ n, n < 20 ∨ n = 21 → s''.psr.getLsbD n = v.re.getLsbD n

/-! ## Tests and branches (44_test_branch.md) -/

/-- The seven tests complete: each ANDs its condition into `Cmpf` (R211 to R217; log 39). -/
def Obligations.TestsComplete : Prop :=
  ∀ (i : Reg) (t : Operand) (v : Cplx) (s : State), readable t s = true → readLoc (locate t s) s = some v →
    let u := readReg i s
    let ends (c : Bool) :=
      Host.Outcome.next (φ := Fault) (ρ := Refusal) (advance { update t s with cmpf := s.cmpf && c })
    exec (.teq i t) s = ends (decide (u.re = v.re ∧ u.im = v.im)) ∧
    exec (.tne i t) s = ends (decide (u.re ≠ v.re ∨ u.im ≠ v.im)) ∧
    exec (.tgr i t) s = ends (decide (v.re.toInt < u.re.toInt)) ∧
    exec (.tge i t) s = ends (decide (v.re.toInt ≤ u.re.toInt)) ∧
    exec (.tsm i t) s = ends (decide (u.re.toInt < v.re.toInt)) ∧
    exec (.tse i t) s = ends (decide (u.re.toInt ≤ v.re.toInt)) ∧
    exec (.tbw i t) s = ends (decide (u.re &&& v.re ≠ 0 ∨ u.im &&& v.im ≠ 0))

/-- `brt`, `brf`, `bra` complete, taken and not taken, and set `Cmpf` after reading it (R218 to R220). -/
def Obligations.BranchesComplete : Prop :=
  ∀ (j : CodeAddr) (s : State),
    exec (.brt j) s = .next (if s.cmpf = true then branchTo j s else complete s) ∧
    exec (.brf j) s = .next (if s.cmpf = true then complete s else branchTo j s) ∧
    exec (.bra j) s = .next (branchTo j s)

/-- `bri` completes: the low 14 bits of the real part of the RAM word (R221, R143; log 23). -/
def Obligations.IndirectBranchCompletes : Prop :=
  ∀ (t : Operand) (v : Cplx) (s : State), storable t s = true → readLoc (locate t s) s = some v →
    ∃ s', exec (.bri t) s = .next s' ∧ s'.pcr.toNat = v.re.toNat % 16384 ∧ s'.cmpf = true ∧
      s' = branchTo s'.pcr (update t s)

/-- `cyc` completes (R222; log 27): both parts go down by one, wrapping, and the branch is taken when the
new real part is not zero. -/
def Obligations.CycleCompletes : Prop :=
  ∀ (i : Reg) (t : Operand) (v : Cplx) (s : State), storable t s = true → readLoc (locate t s) s = some v →
    writeFault i (some t) s = none →
    let u := readReg i s
    let s' := writeReg i ⟨u.re - 1, u.im - 1⟩ (some t) (update t s)
    exec (.cyc i t) s =
      .next (if u.re = 1#32 then complete s' else branchTo (v.re.setWidth 14) s')

/-- `jsr` completes (R223, and at a loop end R230): `rsr` receives the address that would follow, at the end
of a hardware loop its start or its successor. -/
def Obligations.JumpToSubroutineCompletes : Prop :=
  ∀ (j : CodeAddr) (s : State),
    exec (.jsr j) s = .next { s with rsr := (nextAddress s).1, cmpf := true, pcr := j,
                                     loop := (nextAddress s).2, icount := s.icount + 1 }

/-- `rpt` completes (R225, R227, R228; log 28, 29): outside a loop, with a count `C + RPT_BIAS` of 1 to
2^32 - 1 passes and an end behind its slot, the loop from `pcr + 2` to the RAM word's address becomes
active and the slot follows; no register but the counter loses its value. -/
def Obligations.RepeatCompletes : Prop :=
  ∀ (i : Reg) (t : Operand) (v : Cplx) (passes : Nat) (s : State), storable t s = true →
    readLoc (locate t s) s = some v → s.loop.active = false →
    (passes : Int) = (readReg i s).re.toNat + biasInt s.cfg.rptBias → 0 < passes → passes < 2 ^ 32 →
    v.re.setWidth 14 ≠ s.pcr → v.re.setWidth 14 ≠ s.pcr + 1 →
    exec (.rpt i t) s = .next { forgetReg i (update t s) with
      loop := ⟨true, s.pcr + 2, v.re.setWidth 14, BitVec.ofNat 32 passes, i⟩
      cmpf := true, pcr := s.pcr + 1, icount := s.icount + 1 }

/-- What `rpt` has no meaning for (R225, R231 (a) to (c); log 28). -/
def Obligations.RepeatRefusals : Prop :=
  ∀ (i : Reg) (t : Operand) (v : Cplx) (s : State), storable t s = true → readLoc (locate t s) s = some v →
    let passes := ((readReg i s).re.toNat : Int) + biasInt s.cfg.rptBias
    (s.loop.active = true → exec (.rpt i t) s = .fault .nestedRepeat) ∧
    (s.loop.active = false → passes ≤ 0 ∨ 2 ^ 32 ≤ passes → exec (.rpt i t) s = .fault .repeatCount) ∧
    (s.loop.active = false → 0 < passes → passes < 2 ^ 32 →
      v.re.setWidth 14 = s.pcr ∨ v.re.setWidth 14 = s.pcr + 1 → exec (.rpt i t) s = .fault .repeatEnd)

/-! ## bar, ports and control (45_bar_ports_control.md) -/

/-- `lds.bar` and `add.bar` complete, modulo 2^16 (R240, R242; log 23); `ctl` completes: `kout` takes
the low `K_WIDTH` bits of the real part, with its event (R245; log 3). -/
def Obligations.BarAndControlLoadsComplete : Prop :=
  ∀ (t : Operand) (v : Cplx) (s : State), readable t s = true → readLoc (locate t s) s = some v →
    (∃ b : RamAddr, b.toNat = v.re.toNat % 65536 ∧
      exec (.ldsBar t) s = .next (complete { update t s with bar := b })) ∧
    (∃ b : RamAddr, b.toNat = (s.bar.toNat + v.re.toNat) % 65536 ∧
      exec (.addBar t) s = .next (complete { update t s with bar := b })) ∧
    exec (.ctl t) s = .next (complete { update t s with
      ports := { s.ports with kout := v.re.toNat % 2 ^ s.cfg.kWidth }
      trace := .kout (v.re.toNat % 2 ^ s.cfg.kWidth) :: s.trace })

/-- `lds.com` sends the real part and completes when the path is ready or ports do not block, and else
waits with the word it has read (R243, R249; log 30). -/
def Obligations.SendCompletes : Prop :=
  ∀ (t : Operand) (v : Cplx) (s : State), readable t s = true → readLoc (locate t s) s = some v →
    s.run = .running →
    (s.cfg.portBlocking = false ∨ s.pins.poutReady = true →
      exec (.ldsCom .p0 t) s = .next (complete { update t s with
        ports := { s.ports with pout := v.re }, trace := .out .p0 v.re :: s.trace })) ∧
    (s.cfg.portBlocking = false ∨ s.pins.qoutReady = true →
      exec (.ldsCom .p1 t) s = .next (complete { update t s with
        ports := { s.ports with qout := v.re }, trace := .out .p1 v.re :: s.trace })) ∧
    (s.cfg.portBlocking = true → s.pins.poutReady = false →
      exec (.ldsCom .p0 t) s = .next { update t s with run := .waiting (.send .p0 v.re) }) ∧
    (s.cfg.portBlocking = true → s.pins.qoutReady = false →
      exec (.ldsCom .p1 t) s = .next { update t s with run := .waiting (.send .p1 v.re) })

/-- `sts.com` stores the environment's word with imaginary part 0 and completes when the path is ready
or ports do not block, and else waits having touched nothing (R244, R249; log 30). -/
def Obligations.ReceiveCompletes : Prop :=
  ∀ (t : Operand) (a : RamAddr) (s : State), storable t s = true → locate t s = .ram a → s.run = .running →
    (s.cfg.portBlocking = false ∨ s.pins.pinReady = true →
      exec (.stsCom .p0 t) s = .next (complete (update t (ramWrite a ⟨s.pins.pin, 0⟩
        { s with trace := .inp .p0 s.pins.pin :: s.trace })))) ∧
    (s.cfg.portBlocking = false ∨ s.pins.qinReady = true →
      exec (.stsCom .p1 t) s = .next (complete (update t (ramWrite a ⟨s.pins.qin, 0⟩
        { s with trace := .inp .p1 s.pins.qin :: s.trace })))) ∧
    (s.cfg.portBlocking = true → s.pins.pinReady = false →
      exec (.stsCom .p0 t) s = .next { s with run := .waiting (.recv .p0 t) }) ∧
    (s.cfg.portBlocking = true → s.pins.qinReady = false →
      exec (.stsCom .p1 t) s = .next { s with run := .waiting (.recv .p1 t) })

/-- A waiting `lds.com` or `sts.com` (R42, R243, R244, R249; log 30): it completes at the step at which its
path is ready, running again, and until then nothing changes. -/
def Obligations.WaitingPortsResume : Prop :=
  ∀ (port : Port) (w : W32) (t : Operand) (a : RamAddr) (s : State), s.cfg.portBlocking = true →
    (s.run = .waiting (.send port w) →
      (outReady port s = true →
        resume (.send port w) s = .next (complete (portOut port w { s with run := .running }))) ∧
      (outReady port s = false → resume (.send port w) s = .next s)) ∧
    (s.run = .waiting (.recv port t) → storable t s = true → locate t s = .ram a →
      (inReady port s = true → resume (.recv port t) s = .next (complete (update t (ramWrite a ⟨portIn port s, 0⟩
        { s with trace := .inp port (portIn port s) :: s.trace, run := .running })))) ∧
      (inReady port s = false → resume (.recv port t) s = .next s))

/-- `brk` completes by halting: `pcr` stays, `Cmpf` stays, nothing else changes (R246; log 32).
`fls.wbb` completes, and psr b23 reads 1 after it (R248, 20_memory.md R79; log 33). -/
def Obligations.BreakAndFlushComplete : Prop :=
  ∀ s : State, exec .brk s = .next { s with run := .halted } ∧
    exec .flsWbb s = .next (complete { s with wbbEmpty := true }) ∧
    (psrRead (complete { s with wbbEmpty := true })).getLsbD 23 = true

/-- `wai` reads its operand once, samples the `K_WIDTH` bits of `kin`, and completes if the condition holds
of them, else waits (R247; log 3, 31); a waiting `wai` samples again at each step with the operand it has
read. -/
def Obligations.WaitCompletes : Prop :=
  (∀ (t : Operand) (v : Cplx) (s : State), readable t s = true → readLoc (locate t s) s = some v →
    s.run = .running →
    let w := s.pins.kin % 2 ^ s.cfg.kWidth
    exec (.wai t) s = .next (if Config.waiCond s.cfg.kWidth w v.re = true
      then complete { update t s with trace := .kin w :: s.trace }
      else { update t s with trace := .kin w :: s.trace, run := .waiting (.cond v.re) })) ∧
  ∀ (v : W32) (s : State), s.run = .waiting (.cond v) →
    let w := s.pins.kin % 2 ^ s.cfg.kWidth
    resume (.cond v) s = .next (if Config.waiCond s.cfg.kWidth w v = true
      then complete { s with trace := .kin w :: s.trace, run := .running }
      else { s with trace := .kin w :: s.trace })

/-! ## Index registers (46_index_registers.md) -/

/-- `xfr.ptr` and the four `ldx` complete: the low 13 bits of the real part go into the pointer, the
increment, the base or the limit of index `k` (R260 to R266; log 23). An
`ldx` whose own operand updates the index it writes has no meaning (40 R146; log 25). -/
def Obligations.IndexLoadsComplete : Prop :=
  ∀ (k : XReg) (r : Reg) (t : Operand) (v : Cplx) (s : State),
    let x := getIdx k s
    let w : Index13 := v.re.setWidth 13
    exec (.xfrPtr k r) s =
      .next (complete (setIdx k { x with ptr := (readReg r s).re.setWidth 13 } s)) ∧
    (readable t s = true → readLoc (locate t s) s = some v → updatesIndex t k = false →
      exec (.ldxPtr k t) s = .next (complete (setIdx k { x with ptr := w } (update t s))) ∧
      exec (.ldxInc k t) s = .next (complete (setIdx k { x with inc := w } (update t s))) ∧
      exec (.ldxBas k t) s = .next (complete (setIdx k { x with bas := w } (update t s))) ∧
      exec (.ldxLim k t) s = .next (complete (setIdx k { x with lim := w } (update t s)))) ∧
    (readable t s = true → updatesIndex t k = true →
      exec (.ldxPtr k t) s = .fault .selfConflict ∧ exec (.ldxInc k t) s = .fault .selfConflict ∧
      exec (.ldxBas k t) s = .fault .selfConflict ∧ exec (.ldxLim k t) s = .fault .selfConflict)

/-! ## The Butterfly/MAC unit (47_butterfly_mac.md) -/

/-- Writing a complex register, r7 apart, with every psr: r0 to r3 take the value and nothing else changes
(10_state.md R21, R22); r4 (R275), r5 (R276), r6 (R277) load the input latches, and r5 also r4 where psr
b10 is 1. That a write of r6 is recorded as a change of a multiplier input is decision D29 (70 R334;
DEDUCED, log 19). -/
def Obligations.PortWrites : Prop :=
  ∀ (c : Cplx) (t : Option Operand) (s : State),
    writeReg .r0 c t s = { s with gpr := { s.gpr with r0 := c } } ∧
    writeReg .r1 c t s = { s with gpr := { s.gpr with r1 := c } } ∧
    writeReg .r2 c t s = { s with gpr := { s.gpr with r2 := c } } ∧
    writeReg .r3 c t s = { s with gpr := { s.gpr with r3 := c } } ∧
    writeReg .r4 c t s = { s with mac := { s.mac with r4in := ⟨c, true⟩ } } ∧
    (s.psr.getLsbD 10 = false → writeReg .r5 c t s = { s with mac := { s.mac with r5in := ⟨c, true⟩ } }) ∧
    (s.psr.getLsbD 10 = true →
      writeReg .r5 c t s = { s with mac := { s.mac with r5in := ⟨c, true⟩, r4in := ⟨c, true⟩ } }) ∧
    writeReg .r6 c t s = { s with mac := { s.mac with r6in := ⟨c, true⟩ }, mulw := some s.icount }

/-- Reading through the output multiplexers (R274): psr b17 for r4 and r5, psr b18 for r6 and r7, which
then read the multiplier's outputs, where these are specified (R271). -/
def Obligations.PortReads : Prop :=
  ∀ s : State,
    (s.psr.getLsbD 17 = false → readReg .r4 s = s.mac.r4in.value ∧ readReg .r5 s = s.mac.r5in.value) ∧
    (s.psr.getLsbD 17 = true → readReg .r4 s = s.mac.q.value ∧ readReg .r5 s = s.mac.r.value) ∧
    (s.psr.getLsbD 18 = false → readReg .r6 s = s.mac.r6in.value ∧ readReg .r7 s = s.mac.r7in.value) ∧
    (s.psr.getLsbD 18 = true →
      (∀ v, (macOut s).mulOut6 = some v → readReg .r6 s = v) ∧
      ∀ v, (macOut s).mulOut7 = some v → readReg .r7 s = v)

/-- Writing r7 (R278, R279, R284), whatever the unit puts out and whatever MAC_COMB is: the internal
registers take the values from before the write, r6 follows psr b12,b11, the automatic load steps x0, and
the accumulation flags are sticky. An unspecified output leaves the register that takes it unspecified and
makes the flags it feeds draws, whatever they were (R271; log 19). The record of a changed multiplier input
is decision D29 (70 R334; DEDUCED, log 19). -/
def Obligations.R7WriteTrigger : Prop :=
  ∀ (c : Cplx) (t : Option Operand) (s : State),
    let o := macOut s
    let act := s.psr.extractLsb' 11 2
    let amux := s.psr.extractLsb' 4 2
    let bmux := s.psr.extractLsb' 6 2
    let s' := writeReg .r7 c t s
    let takes (out : Option Cplx) (reg : MacReg) :=
      (∀ v, out = some v → reg = ⟨v, true⟩) ∧ (out = none → reg.specified = false)
    let accumulates (n : Nat) (cond : Option Bool) :=
      (∀ b, cond = some b → s'.psr.getLsbD n = (s.psr.getLsbD n || b) ∧
        s'.flagsWritten.getLsbD n = (s.flagsWritten.getLsbD n || b)) ∧
      (cond = none → s'.psr.getLsbD n = false ∧ s'.flagsWritten.getLsbD n = false)
    s'.mac.r7in = ⟨c, true⟩ ∧ s'.mac.r4in = s.mac.r4in ∧ s'.mac.r5in = s.mac.r5in ∧
    takes o.s3 s'.mac.q ∧ takes o.d3 s'.mac.r ∧ takes o.lNext s'.mac.lreg ∧
    (amux = 0 → s'.mac.a = .zero) ∧ (amux = 1 → s'.mac.a = s.mac.r4in) ∧ (amux = 2 → s'.mac.a = s'.mac.q) ∧
    (amux = 3 → s'.mac.a.specified = false) ∧
    (bmux = 0 → s'.mac.b = .zero) ∧
    (bmux = 1 → (s.cfg.bmux1 = .r4In → s'.mac.b = s.mac.r4in) ∧
      (s.cfg.bmux1 = .r5In → s'.mac.b = s.mac.r5in)) ∧
    (bmux = 2 → (s.cfg.bmux2 = .s3 → s'.mac.b = s'.mac.q) ∧ (s.cfg.bmux2 = .d3 → s'.mac.b = s'.mac.r)) ∧
    (bmux = 3 → s'.mac.b.specified = false) ∧
    (act = 0 → s'.mac.r6in = s.mac.r6in) ∧ (act = 1 → s'.mac.r6in = ⟨c, true⟩) ∧
    (act = 2 → isIndexedOperand t = true →
      s'.mac.r6in = ⟨romRead s.idx.x0.ptr s, true⟩ ∧ s'.idx = (updateIdx .x0 .inc s).idx) ∧
    (act = 2 → isIndexedOperand t = false → s'.mac.r6in.specified = false) ∧
    (act = 3 → s'.mac.r6in.specified = false) ∧
    (act ≠ 2 ∨ isIndexedOperand t = false → s'.idx = s.idx) ∧
    (∀ x y, o.s3 = some x → o.d3 = some y →
      accumulates 24 (some (big x.re || big y.re)) ∧ accumulates 25 (some (big x.im || big y.im))) ∧
    (o.s3 = none ∨ o.d3 = none → accumulates 24 none ∧ accumulates 25 none) ∧
    accumulates 29 o.satRe ∧ accumulates 28 o.satIm ∧
    (∀ n, n ≠ 24 → n ≠ 25 → n ≠ 28 → n ≠ 29 →
      s'.psr.getLsbD n = s.psr.getLsbD n ∧ s'.flagsWritten.getLsbD n = s.flagsWritten.getLsbD n) ∧
    s'.mulw = some s.icount

/-- The transparent configuration (R273, which the spec derives from R274 to R278): a read of r4 to r7
returns what was last written, and a write of one of them changes what none of the other three reads as. -/
def Obligations.TransparentConfiguration : Prop :=
  ∀ (i j : Reg) (c : Cplx) (t : Option Operand) (s : State),
    s.psr.getLsbD 17 = false → s.psr.getLsbD 18 = false → s.psr.getLsbD 10 = false →
    s.psr.extractLsb' 11 2 = 0 →
    readReg i (writeReg i c t s) = c ∧ (j ≠ i → readReg j (writeReg i c t s) = readReg j s)

/-- The datapath. Where MAC_COMB is the one R283 suggests (the model's default, log 16), its registers are
specified and the product is old enough (R334), the butterfly: psr b1,b0 = 0, b3,b2 = 1, b14,b13 = 0,
b16,b15 = 0, no shift, no rounding, r6 as first factor; with W in r6 and y in r7, s3 is a + W*y and d3 is
b - W*y, each saturated. What is unspecified (R271, R334; log 19): whatever MAC_COMB is, everything but
L_next where the product is too young; of the suggested one, what is computed from an unspecified factor or
adder input. -/
def Obligations.ButterflyOutputs : Prop :=
  (∀ (s : State) (w : Nat), s.cfg.macComb = .suggested → s.mulw = some w →
    w + s.cfg.mulLatency + 1 ≤ s.icount → s.mac.r6in.specified = true → s.mac.r7in.specified = true →
    s.mac.a.specified = true → s.mac.b.specified = true →
    s.psr.extractLsb' 0 4 = 4 → s.psr.extractLsb' 8 2 = 0 → s.psr.extractLsb' 13 4 = 0 →
    s.psr.getLsbD 19 = false →
    let sat (x : Int) := max (-2 ^ 31) (min x (2 ^ 31 - 1))
    let f := s.mac.r6in.value
    let y := s.mac.r7in.value
    let pre := sat ((f.re.toInt * y.re.toInt - f.im.toInt * y.im.toInt) / 2 ^ 31)
    let pim := sat ((f.re.toInt * y.im.toInt + f.im.toInt * y.re.toInt) / 2 ^ 31)
    ∃ s3 d3, (macOut s).s3 = some s3 ∧ (macOut s).d3 = some d3 ∧
      s3.re.toInt = sat (s.mac.a.value.re.toInt + pre) ∧ s3.im.toInt = sat (s.mac.a.value.im.toInt + pim) ∧
      d3.re.toInt = sat (s.mac.b.value.re.toInt - pre) ∧ d3.im.toInt = sat (s.mac.b.value.im.toInt - pim)) ∧
  (∀ s : State, (∀ w, s.mulw = some w → s.icount < w + s.cfg.mulLatency + 1) →
    let o := macOut s
    o.s3 = none ∧ o.d3 = none ∧ o.satRe = none ∧ o.satIm = none ∧ o.mulOut6 = none ∧ o.mulOut7 = none) ∧
  ∀ s : State, s.cfg.macComb = .suggested →
    let o := macOut s
    (s.mac.r7in.specified = false ∨ (s.psr.getLsbD 19 = false ∧ s.mac.r6in.specified = false) ∨
      (s.psr.getLsbD 19 = true ∧ s.mac.lreg.specified = false) →
      o.s3 = none ∧ o.d3 = none ∧ o.satRe = none ∧ o.satIm = none ∧ o.mulOut6 = none ∧ o.mulOut7 = none) ∧
    (s.mac.a.specified = false → o.s3 = none ∧ o.satRe = none ∧ o.satIm = none) ∧
    (s.mac.b.specified = false → o.d3 = none ∧ o.satRe = none ∧ o.satIm = none) ∧
    (s.mac.r6in.specified = false → o.lNext = none)

/-- The two causes that forbid a register write: the counter register of the active hardware loop, itself
or through an automatic load (44 R231 (d); log 29), and the automatic load of r6 beside an operand
through x0 (R279 (b); log 20). Every instruction that computes a register stops so. -/
def Obligations.RegisterWriteRefusals : Prop :=
  (∀ (r : Reg) (t : Option Operand) (s : State),
    let counter := s.loop.active = true ∧ (r = s.loop.reg ∨
      (r = .r5 ∧ s.loop.reg = .r4 ∧ s.psr.getLsbD 10 = true) ∨
      (r = .r7 ∧ s.loop.reg = .r6 ∧ s.psr.extractLsb' 11 2 ≠ 0))
    let collision := r = .r7 ∧ s.psr.extractLsb' 11 2 = 2 ∧ usesX0 t = true
    (writeFault r t s = none ↔ ¬ counter ∧ ¬ collision) ∧
    (counter → writeFault r t s = some .counterWrite) ∧
    (¬ counter → collision → writeFault r t s = some .r6LoadCollision)) ∧
  ∀ (i : Instr) (r : Reg) (f : Fault) (s : State), i.wellFormed = true → i.dest = some r →
    (∀ t, i.memOperand = some t → readable t s = true ∧ ∃ v, readLoc (locate t s) s = some v) →
    writeFault r i.memOperand s = some f → exec i s = .fault f

/-! ## Whole-machine rules: what no instruction does -/

/-- RAM changes only where a store puts its word (20_memory.md R67, R84): an instruction without a
store operand leaves all of RAM, one with it every word but the one its operand locates. -/
def Obligations.RamChangesOnlyByStores : Prop :=
  ∀ (i : Instr) (s s' : State), exec i s = .next s' →
    (i.storeOperand = none → s'.ram = s.ram) ∧
    (∀ t, i.storeOperand = some t → ∀ b, locate t s ≠ .ram b → ramRead b s' = ramRead b s)

/-- The general registers: an instruction changes r0 to r3 only as its destination, and `rpt` only its
counter register (10_state.md R21, 44 R231 (d)). -/
def Obligations.GeneralRegisterFrame : Prop :=
  ∀ (i : Instr) (s s' : State), exec i s = .next s' →
    ∀ r : Reg, r = .r0 ∨ r = .r1 ∨ r = .r2 ∨ r = .r3 → i.dest ≠ some r → (∀ t, i ≠ .rpt r t) →
      readReg r s' = readReg r s

/-- The Butterfly/MAC registers. An instruction that writes none of r4 to r7, is no `lds.psr` and no `rpt`
on one of them leaves the unit and R334's record (D29; log 19) alone; one that does not write r7 and is no
`lds.psr` leaves the internal registers alone; `lds.psr` leaves the input latches alone, and with b20
written 0 the whole unit; `rpt` on one of r4 to r7 leaves that latch without a specified value, and every
other latch alone (R275 to R278, R285, 44 R231 (d); D15, log 29). -/
def Obligations.MacFrame : Prop :=
  ∀ (i : Instr) (s s' : State), exec i s = .next s' →
    (i.dest ≠ some .r4 → i.dest ≠ some .r5 → i.dest ≠ some .r6 → i.dest ≠ some .r7 → (∀ t, i ≠ .ldsPsr t) →
      (∀ r t, i = .rpt r t → r = .r0 ∨ r = .r1 ∨ r = .r2 ∨ r = .r3) → s'.mac = s.mac ∧ s'.mulw = s.mulw) ∧
    (i.dest ≠ some .r7 → (∀ t, i ≠ .ldsPsr t) →
      s'.mac.a = s.mac.a ∧ s'.mac.b = s.mac.b ∧ s'.mac.q = s.mac.q ∧ s'.mac.r = s.mac.r ∧
      s'.mac.lreg = s.mac.lreg) ∧
    (∀ t, i = .ldsPsr t → s'.mac.r4in = s.mac.r4in ∧ s'.mac.r5in = s.mac.r5in ∧
      s'.mac.r6in = s.mac.r6in ∧ s'.mac.r7in = s.mac.r7in ∧
      ∀ v, readLoc (locate t s) s = some v → v.re.getLsbD 20 = false → s'.mac = s.mac) ∧
    (∀ r t, i = .rpt r t →
      (if r = .r4 then s'.mac.r4in.specified = false else s'.mac.r4in = s.mac.r4in) ∧
      (if r = .r5 then s'.mac.r5in.specified = false else s'.mac.r5in = s.mac.r5in) ∧
      (if r = .r6 then s'.mac.r6in.specified = false else s'.mac.r6in = s.mac.r6in) ∧
      (if r = .r7 then s'.mac.r7in.specified = false else s'.mac.r7in = s.mac.r7in))

/-- The index registers (R27 to R29): a pointer changes only by `xfr.ptr`, by `ldx.ptr`, by an operand's
own update, or, x0, by the automatic load of an r7 write; `n`, `b` and `L` only by their `ldx`. -/
def Obligations.IndexRegisterFrame : Prop :=
  ∀ (i : Instr) (k : XReg) (s s' : State), exec i s = .next s' →
    ((∀ r, i ≠ .xfrPtr k r) → (∀ t, i ≠ .ldxPtr k t) →
      (∀ t, i.memOperand = some t → updatesIndex t k = false) →
      ¬ (k = .x0 ∧ i.dest = some .r7 ∧ s.psr.extractLsb' 11 2 = 2) →
      (getIdx k s').ptr = (getIdx k s).ptr) ∧
    ((∀ t, i ≠ .ldxInc k t) → (getIdx k s').inc = (getIdx k s).inc) ∧
    ((∀ t, i ≠ .ldxBas k t) → (getIdx k s').bas = (getIdx k s).bas) ∧
    ((∀ t, i ≠ .ldxLim k t) → (getIdx k s').lim = (getIdx k s).lim)

/-- `rsr` is written by `jsr` only (R25), `dsr` by `lds.dsr` only (R31), `bar` by `lds.bar` and `add.bar`
only (R30), the output paths by `lds.com` and `ctl` only (R37, R38); no instruction changes the
environment's side, and only the port instructions and `wai` have events (R249). -/
def Obligations.SpecialRegisterFrame : Prop :=
  ∀ (i : Instr) (s s' : State), exec i s = .next s' →
    ((∀ j, i ≠ .jsr j) → s'.rsr = s.rsr) ∧
    ((∀ t, i ≠ .ldsDsr t) → s'.dsr = s.dsr) ∧
    ((∀ t, i ≠ .ldsBar t) → (∀ t, i ≠ .addBar t) → s'.bar = s.bar) ∧
    ((∀ p t, i ≠ .ldsCom p t) → (∀ t, i ≠ .ctl t) → s'.ports = s.ports) ∧
    ((∀ p t, i ≠ .ldsCom p t) → (∀ p t, i ≠ .stsCom p t) → (∀ t, i ≠ .ctl t) → (∀ t, i ≠ .wai t) →
      s'.trace = s.trace) ∧
    s'.pins = s.pins ∧ s'.env = s.env

/-- psr (R33, R169, R284; D9, D13, D33, log 13 and 38): the control bits change by `lds.psr` only, b31 and
b30 by the ALU operations only, the four accumulation flags by a write of r7 and by `lds.psr` only; a write
of r7 never clears one, it can only make it a draw (R334; log 19), and `lds.psr` never sets one. -/
def Obligations.PsrFrame : Prop :=
  ∀ (i : Instr) (s s' : State), exec i s = .next s' →
    let same (n : Nat) :=
      s'.psr.getLsbD n = s.psr.getLsbD n ∧ s'.flagsWritten.getLsbD n = s.flagsWritten.getLsbD n
    ((∀ t, i ≠ .ldsPsr t) → ∀ n, n < 24 → s'.psr.getLsbD n = s.psr.getLsbD n) ∧
    (i.isAlu = false → same 30 ∧ same 31) ∧
    (∀ n, n = 24 ∨ n = 25 ∨ n = 28 ∨ n = 29 →
      (i.dest ≠ some .r7 → (∀ t, i ≠ .ldsPsr t) → same n) ∧
      (i.dest = some .r7 → s.psr.getLsbD n = true →
        s'.psr.getLsbD n = true ∨ s'.flagsWritten.getLsbD n = false) ∧
      ((∃ t, i = .ldsPsr t) → s.psr.getLsbD n = false → s'.psr.getLsbD n = false))

/-- `Cmpf` (R210; the model follows decision D11, log 21): a test never sets it, every other instruction
that completes sets it, and `brk` and a stalled instruction leave it. What a running processor becomes
(10_state.md R42): halted exactly by `brk`, waiting only in `lds.com`, `sts.com` and `wai`. -/
def Obligations.CompareFlagAndRunRule : Prop :=
  ∀ (i : Instr) (s s' : State), exec i s = .next s' →
    (i.isTest = true → s'.cmpf = true → s.cmpf = true) ∧
    (i.isTest = false → s'.icount ≠ s.icount → s'.cmpf = true) ∧
    (s'.icount = s.icount → s'.cmpf = s.cmpf ∧ s'.pcr = s.pcr ∧ s'.loop = s.loop) ∧
    (s.run = .running →
      (s'.run = .halted ↔ i = .brk) ∧
      ((∃ w, s'.run = .waiting w) → (∃ p t, i = .ldsCom p t) ∨ (∃ p t, i = .stsCom p t) ∨ ∃ t, i = .wai t))

/-- The hardware loop (44 R225, R229; D15, log 28): only `rpt` starts one or moves its ends; every other
instruction leaves it or counts one pass at its end, whether or not it branches (R230). The program counter
(10_state.md R24): an instruction that is no branch, no `cyc` and no `jsr` leaves `pcr` at the next address,
or at itself where it does not complete. -/
def Obligations.LoopAndProgramCounterRule : Prop :=
  ∀ (i : Instr) (s s' : State), exec i s = .next s' → (∀ r t, i ≠ .rpt r t) →
    ((s'.icount = s.icount ∧ s'.loop = s.loop) ∨ (s'.icount = s.icount + 1 ∧ s'.loop = (nextAddress s).2)) ∧
    ((∀ j, i ≠ .brt j) → (∀ j, i ≠ .brf j) → (∀ j, i ≠ .bra j) → (∀ t, i ≠ .bri t) → (∀ r t, i ≠ .cyc r t) →
      (∀ j, i ≠ .jsr j) →
      (s'.icount = s.icount + 1 ∧ s'.pcr = (nextAddress s).1) ∨ (s'.icount = s.icount ∧ s'.pcr = s.pcr))

/-! ## Steps -/

/-- No step changes the CodeROM, the DataROM or the parameters (10_state.md R43, 20_memory.md R63, R82). -/
def Obligations.ProgramIsFixed : Prop :=
  ∀ s s' : State, step s = .next s' → s'.code = s.code ∧ s'.rom = s.rom ∧ s'.cfg = s.cfg

/-- The invariant holds after reset, for every value of the parameters. -/
def Obligations.InvariantAtReset : Prop := ∀ p : Config.Params, State.Inv (State.resetOf p)

/-- Every step from any state in which the invariant holds keeps it: the memories stay canonical, psr
stores its own bits only, an active loop has passes left, R334's record lies in the past, `kout` has
`K_WIDTH` bits. -/
def Obligations.StepKeepsInvariant : Prop :=
  ∀ s s' : State, s.Inv → step s = .next s' → s'.Inv

/-- What reset leaves where the spec says it (10_state.md R44, 70 R330), for every value of the parameters:
running at RESET_PCR, no loop active, an empty write-back buffer, so that psr b23 reads 1, b20 reads 0,
no RAM word written, and every register of the Butterfly/MAC unit unspecified (47 R271); the machine's own
reset takes the values R9 suggests (log 2, 3). The spec marks its reset values as its own (D22); what the
registers it leaves unspecified hold is log 4 to 9, and nothing here. -/
def Obligations.ResetState : Prop :=
  State.reset = State.resetOf Config.suggested ∧
  ∀ p : Config.Params,
    let s := State.resetOf p
    s.cfg = p ∧ s.run = .running ∧ s.pcr = p.resetPcr ∧ s.loop.active = false ∧ s.wbbEmpty = true ∧
      (psrRead s).getLsbD 23 = true ∧ (psrRead s).getLsbD 20 = false ∧
      (∀ a, ramRead a s = none) ∧
      ∀ r ∈ [s.mac.r4in, s.mac.r5in, s.mac.r6in, s.mac.r7in, s.mac.a, s.mac.b, s.mac.q, s.mac.r, s.mac.lreg],
        r.specified = false
end

