-- ==== Sys2Proof/Laws/Encoding.lean ====
section
/-!
SUPPORT. The fields of a word and the operands in them: for each part of the decoder, exactly when it
answers and what, in terms of the encoder.
-/

namespace Sys2Proof

/-- The bits of a word put together from fields. -/
theorem Fields.getLsbD_toWord (f : Fields) (i : Nat) : f.toWord.getLsbD i =
    (if i < 18 then f.arg.getLsbD i else if i < 21 then f.am.getLsbD (i-18) else if i < 23 then f.sh.getLsbD
        (i-21) else if i < 26 then f.ra.getLsbD (i-23) else f.op.getLsbD (i-26)) := by
  unfold Fields.toWord
  show BitVec.getLsbD (f.op ++ f.ra ++ f.sh ++ f.am ++ f.arg : BitVec (6+3+2+3+18)) i = _
  simp only [BitVec.getLsbD_append, Nat.sub_sub]
  repeat' split
  all_goals first | omega | rfl

theorem Fields.ofWord_toWord (f : Fields) : Fields.ofWord f.toWord = f := by
  obtain ⟨op, ra, sh, am, arg⟩ := f
  simp only [Fields.ofWord, Fields.mk.injEq]
  refine ⟨?_, ?_, ?_, ?_, ?_⟩ <;> apply BitVec.eq_of_getLsbD_eq <;> intro i hi <;>
    rw [BitVec.getLsbD_extractLsb', Fields.getLsbD_toWord] <;> simp only [hi, decide_true, Bool.true_and]
  · rw [if_neg (by omega), if_neg (by omega), if_neg (by omega), if_neg (by omega), Nat.add_sub_cancel_left]
  · rw [if_neg (by omega), if_neg (by omega), if_neg (by omega), if_pos (by omega), Nat.add_sub_cancel_left]
  · rw [if_neg (by omega), if_neg (by omega), if_pos (by omega), Nat.add_sub_cancel_left]
  · rw [if_neg (by omega), if_pos (by omega), Nat.add_sub_cancel_left]
  · rw [if_pos (by omega), Nat.zero_add]

theorem Fields.toWord_ofWord (w : W32) : (Fields.ofWord w).toWord = w := by
  apply BitVec.eq_of_getLsbD_eq
  intro i hi
  rw [Fields.getLsbD_toWord]
  simp only [Fields.ofWord, BitVec.getLsbD_extractLsb']
  repeat' split
  all_goals first
    | (rw [decide_eq_true (by omega), Bool.true_and]; congr 1; omega)

/-! What each field decodes to, and back. -/

@[simp] theorem regOf_regBits (r : Reg) : regOf (regBits r) = r := by cases r <;> rfl
@[simp] theorem xregOf_xregBits (x : XReg) : xregOf (xregBits x) = x := by cases x <;> rfl
@[simp] theorem updOf_updBits (u : Upd) : updOf (updBits u) = u := by cases u <;> rfl
@[simp] theorem portOf_portBits (p : Port) : portOf (portBits p) = p := by cases p <;> rfl
@[simp] theorem countOf_countBits (n : Count) : countOf (countBits n) = .ok n := by cases n <;> rfl
@[simp] theorem regBits_regOf (v : BitVec 3) : regBits (regOf v) = v := by revert v; decide
@[simp] theorem xregBits_xregOf (v : BitVec 2) : xregBits (xregOf v) = v := by revert v; decide
@[simp] theorem updBits_updOf (v : BitVec 2) : updBits (updOf v) = v := by revert v; decide
@[simp] theorem portBits_portOf (v : BitVec 1) : portBits (portOf v) = v := by revert v; decide
theorem countBits_of_countOf {v : BitVec 2} {n : Count} (h : countOf v = .ok n) : countBits n = v := by
  have key : ∀ (v : BitVec 2), countOf v = .ok .one → v = 1 := by decide
  have key2 : ∀ (v : BitVec 2), countOf v = .ok .two → v = 2 := by decide
  cases n
  · exact (key v h).symm
  · exact (key2 v h).symm

/-! W[17:0] of each operand class, bit by bit, and its parts. -/

theorem getLsbD_romDirect (a : Index13) (i : Nat) :
    (operandArg (.romDirect a)).getLsbD i = (decide (i < 13) && a.getLsbD i) := by
  show BitVec.getLsbD (0#5 ++ a : BitVec (5 + 13)) i = _
  rw [BitVec.getLsbD_append]
  by_cases h : i < 13 <;> simp [h]

theorem getLsbD_ramDirect (a : Index13) (b : Bool) (i : Nat) :
    (operandArg (.ramDirect a b)).getLsbD i = if i < 13 then a.getLsbD i else (decide (i = 17) && b) := by
  show BitVec.getLsbD (BitVec.ofBool b ++ 0#4 ++ a : BitVec (1 + 4 + 13)) i = _
  simp only [BitVec.getLsbD_append]
  by_cases h : i < 13
  · simp [h]
  · by_cases h2 : i < 17
    · rw [if_neg h, if_neg h, if_pos (by omega), decide_eq_false (by omega : ¬ i = 17)]; simp
    · rw [if_neg h, if_neg h, if_neg (by omega), BitVec.getLsbD_ofBool]
      congr 1
      exact decide_eq_decide.2 (by omega)

theorem getLsbD_indexed (k : XReg) (u : Upd) (b : Bool) (i : Nat) :
    (operandArg (.indexed k u b)).getLsbD i =
      if i < 13 then false else if i < 15 then (updBits u).getLsbD (i - 13)
      else if i < 17 then (xregBits k).getLsbD (i - 15) else (decide (i = 17) && b) := by
  show BitVec.getLsbD (BitVec.ofBool b ++ xregBits k ++ updBits u ++ 0#13 : BitVec (1 + 2 + 2 + 13)) i = _
  simp only [BitVec.getLsbD_append, BitVec.getLsbD_ofBool, Nat.sub_sub, BitVec.getLsbD_zero]
  repeat' split
  all_goals first
    | rfl
    | omega
    | (congr 1; exact decide_eq_decide.2 (by omega))

/-- The operand the class and W[17:0] of a legal operand stand for is that operand. -/
theorem readOperand_operandArg (f : Fields) {t : Operand} (h : t.legal = true) (ha : f.am = operandAm t)
    (hb : f.arg = operandArg t) : readOperand f = .ok t := by
  obtain ⟨op, ra, sh, am, arg⟩ := f
  simp only at ha hb
  subst ha hb
  cases t with
  | romDirect a =>
    have h0 : (operandArg (.romDirect a)).extractLsb' 13 5 = 0#5 := by
      apply BitVec.eq_of_getLsbD_eq; intro i hi
      simp [BitVec.getLsbD_extractLsb', getLsbD_romDirect]
    have h1 : (operandArg (.romDirect a)).extractLsb' 0 13 = a := by
      apply BitVec.eq_of_getLsbD_eq; intro i hi
      rw [BitVec.getLsbD_extractLsb', getLsbD_romDirect]; simp [hi]
    simp [readOperand, operandAm, h0, h1, require]
    rfl
  | ramDirect a b =>
    have h0 : (operandArg (.ramDirect a b)).extractLsb' 13 4 = 0#4 := by
      apply BitVec.eq_of_getLsbD_eq; intro i hi
      rw [BitVec.getLsbD_extractLsb', getLsbD_ramDirect, if_neg (by omega), decide_eq_false (by omega :
          ¬ 13 + i = 17)]
      simp
    have h1 : (operandArg (.ramDirect a b)).extractLsb' 0 13 = a := by
      apply BitVec.eq_of_getLsbD_eq; intro i hi
      rw [BitVec.getLsbD_extractLsb', getLsbD_ramDirect, if_pos (by omega)]; simp [hi]
    have h2 : (operandArg (.ramDirect a b)).getLsbD 17 = b := by rw [getLsbD_ramDirect]; simp
    simp only [readOperand, operandAm, h0, h1, h2, require]
    rfl
  | indexed k u b =>
    have h0 : (operandArg (.indexed k u b)).extractLsb' 0 13 = 0#13 := by
      apply BitVec.eq_of_getLsbD_eq; intro i hi
      rw [BitVec.getLsbD_extractLsb', getLsbD_indexed, if_pos (by omega)]; simp
    have h1 : (operandArg (.indexed k u b)).extractLsb' 15 2 = xregBits k := by
      apply BitVec.eq_of_getLsbD_eq; intro i hi
      rw [BitVec.getLsbD_extractLsb', getLsbD_indexed, if_neg (by omega), if_neg (by omega), if_pos (by omega),
        Nat.add_sub_cancel_left]; simp [hi]
    have h2 : (operandArg (.indexed k u b)).extractLsb' 13 2 = updBits u := by
      apply BitVec.eq_of_getLsbD_eq; intro i hi
      rw [BitVec.getLsbD_extractLsb', getLsbD_indexed, if_neg (by omega), if_pos (by omega),
        Nat.add_sub_cancel_left]; simp [hi]
    have h3 : (operandArg (.indexed k u b)).getLsbD 17 = b := by rw [getLsbD_indexed]; simp
    simp only [readOperand, operandAm, h0, h1, h2, h3, require, xregOf_xregBits, updOf_updBits, h]
    rfl

theorem require_ok_iff {c : Bool} {e : Illegal} {u : Unit} : require c e = .ok u ↔ c = true := by
  cases c <;> simp [require]

/-- `do require c; k` answers exactly when `c` holds and `k` answers. -/
theorem require_bind_ok {α : Type} {c : Bool} {e : Illegal} {k : Except Illegal α} {a : α} :
    (require c e >>= fun _ => k) = .ok a ↔ c = true ∧ k = .ok a := by
  cases c
  · simp only [Bool.false_eq_true, false_and, iff_false]
    intro h
    exact absurd h (by simp [require, Bind.bind, Except.bind])
  · simp [require, Bind.bind, Except.bind]

theorem bind_ok {α β : Type} {x : Except Illegal α} {k : α → Except Illegal β} {b : β} :
    (x >>= k) = .ok b ↔ ∃ a, x = .ok a ∧ k a = .ok b := by
  cases x with
  | error e => simp [Bind.bind, Except.bind]
  | ok a => simp [Bind.bind, Except.bind]

/-- `readOperand` answers a legal operand, and its class and W[17:0] are the word's. -/
theorem of_readOperand {f : Fields} {t : Operand} (h : readOperand f = .ok t) :
    t.legal = true ∧ f.am = operandAm t ∧ f.arg = operandArg t := by
  obtain ⟨op, ra, sh, am, arg⟩ := f
  simp only [readOperand] at h
  split at h
  · rename_i h2
    rw [require_bind_ok] at h
    obtain ⟨h0, h1⟩ := h
    cases h1
    refine ⟨rfl, BitVec.eq_of_toNat_eq h2, ?_⟩
    have h0' := eq_of_beq h0
    apply BitVec.eq_of_getLsbD_eq; intro i hi
    rw [getLsbD_romDirect, BitVec.getLsbD_extractLsb', Nat.zero_add]
    by_cases hlt : i < 13
    · simp [hlt]
    · have := congrArg (fun v => BitVec.getLsbD v (i - 13)) h0'
      simp only [BitVec.getLsbD_extractLsb'] at this
      rw [decide_eq_true (by omega : i - 13 < 5), Nat.add_sub_cancel' (by omega)] at this
      simpa [hlt] using this
  · rename_i h2
    rw [require_bind_ok] at h
    obtain ⟨h0, h1⟩ := h
    cases h1
    refine ⟨rfl, BitVec.eq_of_toNat_eq h2, ?_⟩
    have h0' := eq_of_beq h0
    apply BitVec.eq_of_getLsbD_eq; intro i hi
    rw [getLsbD_ramDirect, BitVec.getLsbD_extractLsb', Nat.zero_add]
    by_cases hlt : i < 13
    · simp [hlt]
    · rw [if_neg hlt]
      by_cases h17 : i = 17
      · subst h17; simp
      · have := congrArg (fun v => BitVec.getLsbD v (i - 13)) h0'
        simp only [BitVec.getLsbD_extractLsb'] at this
        rw [decide_eq_true (by omega : i - 13 < 4), Nat.add_sub_cancel' (by omega)] at this
        simpa [h17] using this
  · rename_i h2
    rw [require_bind_ok, require_bind_ok] at h
    obtain ⟨h0, hl, h1⟩ := h
    cases h1
    refine ⟨hl, BitVec.eq_of_toNat_eq h2, ?_⟩
    have h0' := eq_of_beq h0
    apply BitVec.eq_of_getLsbD_eq; intro i hi
    rw [getLsbD_indexed, updBits_updOf, xregBits_xregOf, BitVec.getLsbD_extractLsb', BitVec.getLsbD_extractLsb']
    repeat' split
    · rename_i hlt
      have := congrArg (fun v => BitVec.getLsbD v i) h0'
      simp only [BitVec.getLsbD_extractLsb', Nat.zero_add] at this
      rw [decide_eq_true hlt] at this
      simpa using this
    · rw [decide_eq_true (by omega), Bool.true_and]; congr 1; omega
    · rw [decide_eq_true (by omega), Bool.true_and]; congr 1; omega
    · rw [decide_eq_true (by omega), Bool.true_and]; congr 1; omega
  · cases h

theorem readOperand_ok_iff {f : Fields} {t : Operand} :
    readOperand f = .ok t ↔ t.legal = true ∧ f.am = operandAm t ∧ f.arg = operandArg t :=
  ⟨of_readOperand, fun h => readOperand_operandArg f h.1 h.2.1 h.2.2⟩

theorem legal_of_ramForm {t : Operand} (h : t.ramForm = true) : t.legal = true := by
  cases t with
  | romDirect a => rfl
  | ramDirect a b => rfl
  | indexed k u b => cases k <;> first | rfl | exact absurd h (by simp [Operand.ramForm])

theorem ramOperand_ok_iff {f : Fields} {t : Operand} :
    ramOperand f = .ok t ↔ t.ramForm = true ∧ f.am = operandAm t ∧ f.arg = operandArg t := by
  simp only [ramOperand, bind_ok, require_ok_iff, readOperand_ok_iff]
  constructor
  · rintro ⟨u, ⟨-, ha, hb⟩, -, hr, h⟩
    cases h
    exact ⟨hr, ha, hb⟩
  · rintro ⟨hr, ha, hb⟩
    exact ⟨t, ⟨legal_of_ramForm hr, ha, hb⟩, (), hr, rfl⟩

theorem regOperand_ok_iff {f : Fields} {r : Reg} :
    regOperand f = .ok r ↔ f.am = 1 ∧ f.arg = (0#15 ++ regBits r : BitVec 18) := by
  obtain ⟨op, ra, sh, am, arg⟩ := f
  have hbit (r : Reg) (i : Nat) : BitVec.getLsbD (0#15 ++ regBits r : BitVec (15 + 3)) i =
      if i < 3 then (regBits r).getLsbD i else false := by rw [BitVec.getLsbD_append, BitVec.getLsbD_zero]
  simp only [regOperand, require_bind_ok, beq_iff_eq, Except.ok.injEq]
  constructor
  · rintro ⟨ha, h0, rfl⟩
    refine ⟨ha, ?_⟩
    apply BitVec.eq_of_getLsbD_eq; intro i hi
    refine Eq.trans ?_ (hbit _ i).symm
    rw [regBits_regOf, BitVec.getLsbD_extractLsb']
    split
    · simp [*]
    · have := congrArg (fun v => BitVec.getLsbD v (i - 3)) h0
      simp only [BitVec.getLsbD_extractLsb'] at this
      rw [decide_eq_true (by omega : i - 3 < 15), Nat.add_sub_cancel' (by omega)] at this
      simpa using this
  · rintro ⟨ha, rfl⟩
    refine ⟨ha, ?_, ?_⟩
    · apply BitVec.eq_of_getLsbD_eq; intro i hi
      rw [BitVec.getLsbD_extractLsb']
      refine Eq.trans (congrArg _ (hbit r (3 + i))) ?_
      rw [if_neg (by omega)]; simp
    · have : BitVec.extractLsb' 0 3 (0#15 ++ regBits r : BitVec (15 + 3)) = regBits r := by
        apply BitVec.eq_of_getLsbD_eq; intro i hi
        rw [BitVec.getLsbD_extractLsb', hbit, if_pos (by omega)]; simp [hi]
      exact (congrArg regOf this).trans (regOf_regBits r)

theorem jumpOperand_ok_iff {f : Fields} {j : CodeAddr} :
    jumpOperand f = .ok j ↔ f.am = 5 ∧ f.arg = (0#4 ++ j : BitVec 18) := by
  obtain ⟨op, ra, sh, am, arg⟩ := f
  have hbit (j : CodeAddr) (i : Nat) : BitVec.getLsbD (0#4 ++ j : BitVec (4 + 14)) i =
      if i < 14 then j.getLsbD i else false := by rw [BitVec.getLsbD_append, BitVec.getLsbD_zero]
  simp only [jumpOperand, require_bind_ok, beq_iff_eq, Except.ok.injEq]
  constructor
  · rintro ⟨ha, h0, rfl⟩
    refine ⟨ha, ?_⟩
    apply BitVec.eq_of_getLsbD_eq; intro i hi
    refine Eq.trans ?_ (hbit _ i).symm
    rw [BitVec.getLsbD_extractLsb']
    split
    · simp [*]
    · have := congrArg (fun v => BitVec.getLsbD v (i - 14)) h0
      simp only [BitVec.getLsbD_extractLsb'] at this
      rw [decide_eq_true (by omega : i - 14 < 4), Nat.add_sub_cancel' (by omega)] at this
      simpa using this
  · rintro ⟨ha, rfl⟩
    refine ⟨ha, ?_, ?_⟩
    · apply BitVec.eq_of_getLsbD_eq; intro i hi
      rw [BitVec.getLsbD_extractLsb']
      refine Eq.trans (congrArg _ (hbit j (14 + i))) ?_
      rw [if_neg (by omega)]; simp
    · apply BitVec.eq_of_getLsbD_eq; intro i hi
      rw [BitVec.getLsbD_extractLsb']
      refine Eq.trans (congrArg _ (hbit j (0 + i))) ?_
      rw [if_pos (by omega)]; simp [hi]

theorem noOperand_ok_iff {f : Fields} {u : Unit} : noOperand f = .ok u ↔ f.am = 0 ∧ f.arg = 0 := by
  simp only [noOperand, require_bind_ok, require_ok_iff, beq_iff_eq]

theorem noRa_ok_iff {f : Fields} {u : Unit} : noRa f = .ok u ↔ f.ra = 0 := by
  simp only [noRa, require_ok_iff, beq_iff_eq]

theorem noSh_ok_iff {f : Fields} {u : Unit} : noSh f = .ok u ↔ f.sh = 0 := by
  simp only [noSh, require_ok_iff, beq_iff_eq]

theorem xField_ok_iff {f : Fields} {x : XReg} : xField f = .ok x ↔ f.ra = raX x := by
  obtain ⟨op, ra, sh, am, arg⟩ := f
  simp only [xField, require_bind_ok, beq_iff_eq, Except.ok.injEq]
  revert ra x
  have key : ∀ ra : BitVec 3, (ra.extractLsb' 2 1 = 0 ∧ xregOf (ra.extractLsb' 0 2) = .x0 ↔ ra = raX .x0) ∧
    (ra.extractLsb' 2 1 = 0 ∧ xregOf (ra.extractLsb' 0 2) = .x1 ↔ ra = raX .x1) ∧
    (ra.extractLsb' 2 1 = 0 ∧ xregOf (ra.extractLsb' 0 2) = .x2 ↔ ra = raX .x2) ∧
    (ra.extractLsb' 2 1 = 0 ∧ xregOf (ra.extractLsb' 0 2) = .x3 ↔ ra = raX .x3) := by decide
  intro x ra
  obtain ⟨h0, h1, h2, h3⟩ := key ra
  cases x <;> assumption

theorem portField_ok_iff {f : Fields} {p : Port} : portField f = .ok p ↔ f.ra = raPort p := by
  obtain ⟨op, ra, sh, am, arg⟩ := f
  simp only [portField, require_bind_ok, beq_iff_eq, Except.ok.injEq]
  revert ra p
  have key : ∀ ra : BitVec 3, (ra.extractLsb' 1 2 = 0 ∧ portOf (ra.extractLsb' 0 1) = .p0 ↔ ra = raPort .p0) ∧
    (ra.extractLsb' 1 2 = 0 ∧ portOf (ra.extractLsb' 0 1) = .p1 ↔ ra = raPort .p1) := by decide
  intro p ra
  obtain ⟨h0, h1⟩ := key ra
  cases p <;> assumption

theorem countOf_ok_iff {v : BitVec 2} {n : Count} : countOf v = .ok n ↔ v = countBits n :=
  ⟨fun h => (countBits_of_countOf h).symm, fun h => h ▸ countOf_countBits n⟩
end Sys2Proof
end

