-- ==== Sys2Proof/Laws/State.lean ====
section
/-!
SUPPORT. One lemma per field per named update of State: the fields the update leaves alone. They are
the project's simp set for states; no later proof unfolds a record update.
-/

namespace Sys2Proof.Machine


/-! `setCmpf` -/

@[simp] theorem setCmpf_cfg (s : State) : (setCmpf s).cfg = s.cfg := rfl
@[simp] theorem setCmpf_gpr (s : State) : (setCmpf s).gpr = s.gpr := rfl
@[simp] theorem setCmpf_mac (s : State) : (setCmpf s).mac = s.mac := rfl
@[simp] theorem setCmpf_idx (s : State) : (setCmpf s).idx = s.idx := rfl
@[simp] theorem setCmpf_pcr (s : State) : (setCmpf s).pcr = s.pcr := rfl
@[simp] theorem setCmpf_rsr (s : State) : (setCmpf s).rsr = s.rsr := rfl
@[simp] theorem setCmpf_bar (s : State) : (setCmpf s).bar = s.bar := rfl
@[simp] theorem setCmpf_dsr (s : State) : (setCmpf s).dsr = s.dsr := rfl
@[simp] theorem setCmpf_psr (s : State) : (setCmpf s).psr = s.psr := rfl
@[simp] theorem setCmpf_flagsWritten (s : State) : (setCmpf s).flagsWritten = s.flagsWritten := rfl
@[simp] theorem setCmpf_loop (s : State) : (setCmpf s).loop = s.loop := rfl
@[simp] theorem setCmpf_wbbEmpty (s : State) : (setCmpf s).wbbEmpty = s.wbbEmpty := rfl
@[simp] theorem setCmpf_run (s : State) : (setCmpf s).run = s.run := rfl
@[simp] theorem setCmpf_ports (s : State) : (setCmpf s).ports = s.ports := rfl
@[simp] theorem setCmpf_pins (s : State) : (setCmpf s).pins = s.pins := rfl
@[simp] theorem setCmpf_env (s : State) : (setCmpf s).env = s.env := rfl
@[simp] theorem setCmpf_trace (s : State) : (setCmpf s).trace = s.trace := rfl
@[simp] theorem setCmpf_icount (s : State) : (setCmpf s).icount = s.icount := rfl
@[simp] theorem setCmpf_mulw (s : State) : (setCmpf s).mulw = s.mulw := rfl
@[simp] theorem setCmpf_ram (s : State) : (setCmpf s).ram = s.ram := rfl
@[simp] theorem setCmpf_rom (s : State) : (setCmpf s).rom = s.rom := rfl
@[simp] theorem setCmpf_code (s : State) : (setCmpf s).code = s.code := rfl

/-! `finishAt` -/

@[simp] theorem finishAt_cfg (a : CodeAddr) (s : State) : (finishAt a s).cfg = s.cfg := rfl
@[simp] theorem finishAt_gpr (a : CodeAddr) (s : State) : (finishAt a s).gpr = s.gpr := rfl
@[simp] theorem finishAt_mac (a : CodeAddr) (s : State) : (finishAt a s).mac = s.mac := rfl
@[simp] theorem finishAt_idx (a : CodeAddr) (s : State) : (finishAt a s).idx = s.idx := rfl
@[simp] theorem finishAt_rsr (a : CodeAddr) (s : State) : (finishAt a s).rsr = s.rsr := rfl
@[simp] theorem finishAt_cmpf (a : CodeAddr) (s : State) : (finishAt a s).cmpf = s.cmpf := rfl
@[simp] theorem finishAt_bar (a : CodeAddr) (s : State) : (finishAt a s).bar = s.bar := rfl
@[simp] theorem finishAt_dsr (a : CodeAddr) (s : State) : (finishAt a s).dsr = s.dsr := rfl
@[simp] theorem finishAt_psr (a : CodeAddr) (s : State) : (finishAt a s).psr = s.psr := rfl
@[simp] theorem finishAt_flagsWritten (a : CodeAddr) (s : State) :
    (finishAt a s).flagsWritten = s.flagsWritten := rfl
@[simp] theorem finishAt_wbbEmpty (a : CodeAddr) (s : State) : (finishAt a s).wbbEmpty = s.wbbEmpty := rfl
@[simp] theorem finishAt_run (a : CodeAddr) (s : State) : (finishAt a s).run = s.run := rfl
@[simp] theorem finishAt_ports (a : CodeAddr) (s : State) : (finishAt a s).ports = s.ports := rfl
@[simp] theorem finishAt_pins (a : CodeAddr) (s : State) : (finishAt a s).pins = s.pins := rfl
@[simp] theorem finishAt_env (a : CodeAddr) (s : State) : (finishAt a s).env = s.env := rfl
@[simp] theorem finishAt_trace (a : CodeAddr) (s : State) : (finishAt a s).trace = s.trace := rfl
@[simp] theorem finishAt_mulw (a : CodeAddr) (s : State) : (finishAt a s).mulw = s.mulw := rfl
@[simp] theorem finishAt_ram (a : CodeAddr) (s : State) : (finishAt a s).ram = s.ram := rfl
@[simp] theorem finishAt_rom (a : CodeAddr) (s : State) : (finishAt a s).rom = s.rom := rfl
@[simp] theorem finishAt_code (a : CodeAddr) (s : State) : (finishAt a s).code = s.code := rfl

/-! `advance` -/

@[simp] theorem advance_cfg (s : State) : (advance s).cfg = s.cfg := rfl
@[simp] theorem advance_gpr (s : State) : (advance s).gpr = s.gpr := rfl
@[simp] theorem advance_mac (s : State) : (advance s).mac = s.mac := rfl
@[simp] theorem advance_idx (s : State) : (advance s).idx = s.idx := rfl
@[simp] theorem advance_rsr (s : State) : (advance s).rsr = s.rsr := rfl
@[simp] theorem advance_cmpf (s : State) : (advance s).cmpf = s.cmpf := rfl
@[simp] theorem advance_bar (s : State) : (advance s).bar = s.bar := rfl
@[simp] theorem advance_dsr (s : State) : (advance s).dsr = s.dsr := rfl
@[simp] theorem advance_psr (s : State) : (advance s).psr = s.psr := rfl
@[simp] theorem advance_flagsWritten (s : State) : (advance s).flagsWritten = s.flagsWritten := rfl
@[simp] theorem advance_wbbEmpty (s : State) : (advance s).wbbEmpty = s.wbbEmpty := rfl
@[simp] theorem advance_run (s : State) : (advance s).run = s.run := rfl
@[simp] theorem advance_ports (s : State) : (advance s).ports = s.ports := rfl
@[simp] theorem advance_pins (s : State) : (advance s).pins = s.pins := rfl
@[simp] theorem advance_env (s : State) : (advance s).env = s.env := rfl
@[simp] theorem advance_trace (s : State) : (advance s).trace = s.trace := rfl
@[simp] theorem advance_mulw (s : State) : (advance s).mulw = s.mulw := rfl
@[simp] theorem advance_ram (s : State) : (advance s).ram = s.ram := rfl
@[simp] theorem advance_rom (s : State) : (advance s).rom = s.rom := rfl
@[simp] theorem advance_code (s : State) : (advance s).code = s.code := rfl

/-! `goTo` -/

@[simp] theorem goTo_cfg (a : CodeAddr) (s : State) : (goTo a s).cfg = s.cfg := rfl
@[simp] theorem goTo_gpr (a : CodeAddr) (s : State) : (goTo a s).gpr = s.gpr := rfl
@[simp] theorem goTo_mac (a : CodeAddr) (s : State) : (goTo a s).mac = s.mac := rfl
@[simp] theorem goTo_idx (a : CodeAddr) (s : State) : (goTo a s).idx = s.idx := rfl
@[simp] theorem goTo_rsr (a : CodeAddr) (s : State) : (goTo a s).rsr = s.rsr := rfl
@[simp] theorem goTo_cmpf (a : CodeAddr) (s : State) : (goTo a s).cmpf = s.cmpf := rfl
@[simp] theorem goTo_bar (a : CodeAddr) (s : State) : (goTo a s).bar = s.bar := rfl
@[simp] theorem goTo_dsr (a : CodeAddr) (s : State) : (goTo a s).dsr = s.dsr := rfl
@[simp] theorem goTo_psr (a : CodeAddr) (s : State) : (goTo a s).psr = s.psr := rfl
@[simp] theorem goTo_flagsWritten (a : CodeAddr) (s : State) : (goTo a s).flagsWritten = s.flagsWritten := rfl
@[simp] theorem goTo_wbbEmpty (a : CodeAddr) (s : State) : (goTo a s).wbbEmpty = s.wbbEmpty := rfl
@[simp] theorem goTo_run (a : CodeAddr) (s : State) : (goTo a s).run = s.run := rfl
@[simp] theorem goTo_ports (a : CodeAddr) (s : State) : (goTo a s).ports = s.ports := rfl
@[simp] theorem goTo_pins (a : CodeAddr) (s : State) : (goTo a s).pins = s.pins := rfl
@[simp] theorem goTo_env (a : CodeAddr) (s : State) : (goTo a s).env = s.env := rfl
@[simp] theorem goTo_trace (a : CodeAddr) (s : State) : (goTo a s).trace = s.trace := rfl
@[simp] theorem goTo_mulw (a : CodeAddr) (s : State) : (goTo a s).mulw = s.mulw := rfl
@[simp] theorem goTo_ram (a : CodeAddr) (s : State) : (goTo a s).ram = s.ram := rfl
@[simp] theorem goTo_rom (a : CodeAddr) (s : State) : (goTo a s).rom = s.rom := rfl
@[simp] theorem goTo_code (a : CodeAddr) (s : State) : (goTo a s).code = s.code := rfl

/-! `complete` -/

@[simp] theorem complete_cfg (s : State) : (complete s).cfg = s.cfg := rfl
@[simp] theorem complete_gpr (s : State) : (complete s).gpr = s.gpr := rfl
@[simp] theorem complete_mac (s : State) : (complete s).mac = s.mac := rfl
@[simp] theorem complete_idx (s : State) : (complete s).idx = s.idx := rfl
@[simp] theorem complete_rsr (s : State) : (complete s).rsr = s.rsr := rfl
@[simp] theorem complete_bar (s : State) : (complete s).bar = s.bar := rfl
@[simp] theorem complete_dsr (s : State) : (complete s).dsr = s.dsr := rfl
@[simp] theorem complete_psr (s : State) : (complete s).psr = s.psr := rfl
@[simp] theorem complete_flagsWritten (s : State) : (complete s).flagsWritten = s.flagsWritten := rfl
@[simp] theorem complete_wbbEmpty (s : State) : (complete s).wbbEmpty = s.wbbEmpty := rfl
@[simp] theorem complete_run (s : State) : (complete s).run = s.run := rfl
@[simp] theorem complete_ports (s : State) : (complete s).ports = s.ports := rfl
@[simp] theorem complete_pins (s : State) : (complete s).pins = s.pins := rfl
@[simp] theorem complete_env (s : State) : (complete s).env = s.env := rfl
@[simp] theorem complete_trace (s : State) : (complete s).trace = s.trace := rfl
@[simp] theorem complete_mulw (s : State) : (complete s).mulw = s.mulw := rfl
@[simp] theorem complete_ram (s : State) : (complete s).ram = s.ram := rfl
@[simp] theorem complete_rom (s : State) : (complete s).rom = s.rom := rfl
@[simp] theorem complete_code (s : State) : (complete s).code = s.code := rfl

/-! `branchTo` -/

@[simp] theorem branchTo_cfg (a : CodeAddr) (s : State) : (branchTo a s).cfg = s.cfg := rfl
@[simp] theorem branchTo_gpr (a : CodeAddr) (s : State) : (branchTo a s).gpr = s.gpr := rfl
@[simp] theorem branchTo_mac (a : CodeAddr) (s : State) : (branchTo a s).mac = s.mac := rfl
@[simp] theorem branchTo_idx (a : CodeAddr) (s : State) : (branchTo a s).idx = s.idx := rfl
@[simp] theorem branchTo_rsr (a : CodeAddr) (s : State) : (branchTo a s).rsr = s.rsr := rfl
@[simp] theorem branchTo_bar (a : CodeAddr) (s : State) : (branchTo a s).bar = s.bar := rfl
@[simp] theorem branchTo_dsr (a : CodeAddr) (s : State) : (branchTo a s).dsr = s.dsr := rfl
@[simp] theorem branchTo_psr (a : CodeAddr) (s : State) : (branchTo a s).psr = s.psr := rfl
@[simp] theorem branchTo_flagsWritten (a : CodeAddr) (s : State) :
    (branchTo a s).flagsWritten = s.flagsWritten := rfl
@[simp] theorem branchTo_wbbEmpty (a : CodeAddr) (s : State) : (branchTo a s).wbbEmpty = s.wbbEmpty := rfl
@[simp] theorem branchTo_run (a : CodeAddr) (s : State) : (branchTo a s).run = s.run := rfl
@[simp] theorem branchTo_ports (a : CodeAddr) (s : State) : (branchTo a s).ports = s.ports := rfl
@[simp] theorem branchTo_pins (a : CodeAddr) (s : State) : (branchTo a s).pins = s.pins := rfl
@[simp] theorem branchTo_env (a : CodeAddr) (s : State) : (branchTo a s).env = s.env := rfl
@[simp] theorem branchTo_trace (a : CodeAddr) (s : State) : (branchTo a s).trace = s.trace := rfl
@[simp] theorem branchTo_mulw (a : CodeAddr) (s : State) : (branchTo a s).mulw = s.mulw := rfl
@[simp] theorem branchTo_ram (a : CodeAddr) (s : State) : (branchTo a s).ram = s.ram := rfl
@[simp] theorem branchTo_rom (a : CodeAddr) (s : State) : (branchTo a s).rom = s.rom := rfl
@[simp] theorem branchTo_code (a : CodeAddr) (s : State) : (branchTo a s).code = s.code := rfl

/-! `branchIf` -/

@[simp] theorem branchIf_cfg (c : Bool) (a : CodeAddr) (s : State) : (branchIf c a s).cfg = s.cfg := by
    cases c <;> rfl
@[simp] theorem branchIf_gpr (c : Bool) (a : CodeAddr) (s : State) : (branchIf c a s).gpr = s.gpr := by
    cases c <;> rfl
@[simp] theorem branchIf_mac (c : Bool) (a : CodeAddr) (s : State) : (branchIf c a s).mac = s.mac := by
    cases c <;> rfl
@[simp] theorem branchIf_idx (c : Bool) (a : CodeAddr) (s : State) : (branchIf c a s).idx = s.idx := by
    cases c <;> rfl
@[simp] theorem branchIf_rsr (c : Bool) (a : CodeAddr) (s : State) : (branchIf c a s).rsr = s.rsr := by
    cases c <;> rfl
@[simp] theorem branchIf_bar (c : Bool) (a : CodeAddr) (s : State) : (branchIf c a s).bar = s.bar := by
    cases c <;> rfl
@[simp] theorem branchIf_dsr (c : Bool) (a : CodeAddr) (s : State) : (branchIf c a s).dsr = s.dsr := by
    cases c <;> rfl
@[simp] theorem branchIf_psr (c : Bool) (a : CodeAddr) (s : State) : (branchIf c a s).psr = s.psr := by
    cases c <;> rfl
@[simp] theorem branchIf_flagsWritten (c : Bool) (a : CodeAddr) (s : State) :
    (branchIf c a s).flagsWritten = s.flagsWritten := by cases c <;> rfl
@[simp] theorem branchIf_wbbEmpty (c : Bool) (a : CodeAddr) (s : State) :
    (branchIf c a s).wbbEmpty = s.wbbEmpty := by cases c <;> rfl
@[simp] theorem branchIf_run (c : Bool) (a : CodeAddr) (s : State) : (branchIf c a s).run = s.run := by
    cases c <;> rfl
@[simp] theorem branchIf_ports (c : Bool) (a : CodeAddr) (s : State) : (branchIf c a s).ports = s.ports := by
    cases c <;> rfl
@[simp] theorem branchIf_pins (c : Bool) (a : CodeAddr) (s : State) : (branchIf c a s).pins = s.pins := by
    cases c <;> rfl
@[simp] theorem branchIf_env (c : Bool) (a : CodeAddr) (s : State) : (branchIf c a s).env = s.env := by
    cases c <;> rfl
@[simp] theorem branchIf_trace (c : Bool) (a : CodeAddr) (s : State) : (branchIf c a s).trace = s.trace := by
    cases c <;> rfl
@[simp] theorem branchIf_mulw (c : Bool) (a : CodeAddr) (s : State) : (branchIf c a s).mulw = s.mulw := by
    cases c <;> rfl
@[simp] theorem branchIf_ram (c : Bool) (a : CodeAddr) (s : State) : (branchIf c a s).ram = s.ram := by
    cases c <;> rfl
@[simp] theorem branchIf_rom (c : Bool) (a : CodeAddr) (s : State) : (branchIf c a s).rom = s.rom := by
    cases c <;> rfl
@[simp] theorem branchIf_code (c : Bool) (a : CodeAddr) (s : State) : (branchIf c a s).code = s.code := by
    cases c <;> rfl

/-! `setRun` -/

@[simp] theorem setRun_cfg (r : Run) (s : State) : (setRun r s).cfg = s.cfg := rfl
@[simp] theorem setRun_gpr (r : Run) (s : State) : (setRun r s).gpr = s.gpr := rfl
@[simp] theorem setRun_mac (r : Run) (s : State) : (setRun r s).mac = s.mac := rfl
@[simp] theorem setRun_idx (r : Run) (s : State) : (setRun r s).idx = s.idx := rfl
@[simp] theorem setRun_pcr (r : Run) (s : State) : (setRun r s).pcr = s.pcr := rfl
@[simp] theorem setRun_rsr (r : Run) (s : State) : (setRun r s).rsr = s.rsr := rfl
@[simp] theorem setRun_cmpf (r : Run) (s : State) : (setRun r s).cmpf = s.cmpf := rfl
@[simp] theorem setRun_bar (r : Run) (s : State) : (setRun r s).bar = s.bar := rfl
@[simp] theorem setRun_dsr (r : Run) (s : State) : (setRun r s).dsr = s.dsr := rfl
@[simp] theorem setRun_psr (r : Run) (s : State) : (setRun r s).psr = s.psr := rfl
@[simp] theorem setRun_flagsWritten (r : Run) (s : State) : (setRun r s).flagsWritten = s.flagsWritten := rfl
@[simp] theorem setRun_loop (r : Run) (s : State) : (setRun r s).loop = s.loop := rfl
@[simp] theorem setRun_wbbEmpty (r : Run) (s : State) : (setRun r s).wbbEmpty = s.wbbEmpty := rfl
@[simp] theorem setRun_ports (r : Run) (s : State) : (setRun r s).ports = s.ports := rfl
@[simp] theorem setRun_pins (r : Run) (s : State) : (setRun r s).pins = s.pins := rfl
@[simp] theorem setRun_env (r : Run) (s : State) : (setRun r s).env = s.env := rfl
@[simp] theorem setRun_trace (r : Run) (s : State) : (setRun r s).trace = s.trace := rfl
@[simp] theorem setRun_icount (r : Run) (s : State) : (setRun r s).icount = s.icount := rfl
@[simp] theorem setRun_mulw (r : Run) (s : State) : (setRun r s).mulw = s.mulw := rfl
@[simp] theorem setRun_ram (r : Run) (s : State) : (setRun r s).ram = s.ram := rfl
@[simp] theorem setRun_rom (r : Run) (s : State) : (setRun r s).rom = s.rom := rfl
@[simp] theorem setRun_code (r : Run) (s : State) : (setRun r s).code = s.code := rfl

/-! `andCmpf` -/

@[simp] theorem andCmpf_cfg (c : Bool) (s : State) : (andCmpf c s).cfg = s.cfg := rfl
@[simp] theorem andCmpf_gpr (c : Bool) (s : State) : (andCmpf c s).gpr = s.gpr := rfl
@[simp] theorem andCmpf_mac (c : Bool) (s : State) : (andCmpf c s).mac = s.mac := rfl
@[simp] theorem andCmpf_idx (c : Bool) (s : State) : (andCmpf c s).idx = s.idx := rfl
@[simp] theorem andCmpf_pcr (c : Bool) (s : State) : (andCmpf c s).pcr = s.pcr := rfl
@[simp] theorem andCmpf_rsr (c : Bool) (s : State) : (andCmpf c s).rsr = s.rsr := rfl
@[simp] theorem andCmpf_bar (c : Bool) (s : State) : (andCmpf c s).bar = s.bar := rfl
@[simp] theorem andCmpf_dsr (c : Bool) (s : State) : (andCmpf c s).dsr = s.dsr := rfl
@[simp] theorem andCmpf_psr (c : Bool) (s : State) : (andCmpf c s).psr = s.psr := rfl
@[simp] theorem andCmpf_flagsWritten (c : Bool) (s : State) : (andCmpf c s).flagsWritten = s.flagsWritten := rfl
@[simp] theorem andCmpf_loop (c : Bool) (s : State) : (andCmpf c s).loop = s.loop := rfl
@[simp] theorem andCmpf_wbbEmpty (c : Bool) (s : State) : (andCmpf c s).wbbEmpty = s.wbbEmpty := rfl
@[simp] theorem andCmpf_run (c : Bool) (s : State) : (andCmpf c s).run = s.run := rfl
@[simp] theorem andCmpf_ports (c : Bool) (s : State) : (andCmpf c s).ports = s.ports := rfl
@[simp] theorem andCmpf_pins (c : Bool) (s : State) : (andCmpf c s).pins = s.pins := rfl
@[simp] theorem andCmpf_env (c : Bool) (s : State) : (andCmpf c s).env = s.env := rfl
@[simp] theorem andCmpf_trace (c : Bool) (s : State) : (andCmpf c s).trace = s.trace := rfl
@[simp] theorem andCmpf_icount (c : Bool) (s : State) : (andCmpf c s).icount = s.icount := rfl
@[simp] theorem andCmpf_mulw (c : Bool) (s : State) : (andCmpf c s).mulw = s.mulw := rfl
@[simp] theorem andCmpf_ram (c : Bool) (s : State) : (andCmpf c s).ram = s.ram := rfl
@[simp] theorem andCmpf_rom (c : Bool) (s : State) : (andCmpf c s).rom = s.rom := rfl
@[simp] theorem andCmpf_code (c : Bool) (s : State) : (andCmpf c s).code = s.code := rfl
@[simp] theorem andCmpf_cmpf (c : Bool) (s : State) : (andCmpf c s).cmpf = (s.cmpf && c) := rfl

/-! `setRsr` -/

@[simp] theorem setRsr_cfg (a : CodeAddr) (s : State) : (setRsr a s).cfg = s.cfg := rfl
@[simp] theorem setRsr_gpr (a : CodeAddr) (s : State) : (setRsr a s).gpr = s.gpr := rfl
@[simp] theorem setRsr_mac (a : CodeAddr) (s : State) : (setRsr a s).mac = s.mac := rfl
@[simp] theorem setRsr_idx (a : CodeAddr) (s : State) : (setRsr a s).idx = s.idx := rfl
@[simp] theorem setRsr_pcr (a : CodeAddr) (s : State) : (setRsr a s).pcr = s.pcr := rfl
@[simp] theorem setRsr_cmpf (a : CodeAddr) (s : State) : (setRsr a s).cmpf = s.cmpf := rfl
@[simp] theorem setRsr_bar (a : CodeAddr) (s : State) : (setRsr a s).bar = s.bar := rfl
@[simp] theorem setRsr_dsr (a : CodeAddr) (s : State) : (setRsr a s).dsr = s.dsr := rfl
@[simp] theorem setRsr_psr (a : CodeAddr) (s : State) : (setRsr a s).psr = s.psr := rfl
@[simp] theorem setRsr_flagsWritten (a : CodeAddr) (s : State) : (setRsr a s).flagsWritten = s.flagsWritten := rfl
@[simp] theorem setRsr_loop (a : CodeAddr) (s : State) : (setRsr a s).loop = s.loop := rfl
@[simp] theorem setRsr_wbbEmpty (a : CodeAddr) (s : State) : (setRsr a s).wbbEmpty = s.wbbEmpty := rfl
@[simp] theorem setRsr_run (a : CodeAddr) (s : State) : (setRsr a s).run = s.run := rfl
@[simp] theorem setRsr_ports (a : CodeAddr) (s : State) : (setRsr a s).ports = s.ports := rfl
@[simp] theorem setRsr_pins (a : CodeAddr) (s : State) : (setRsr a s).pins = s.pins := rfl
@[simp] theorem setRsr_env (a : CodeAddr) (s : State) : (setRsr a s).env = s.env := rfl
@[simp] theorem setRsr_trace (a : CodeAddr) (s : State) : (setRsr a s).trace = s.trace := rfl
@[simp] theorem setRsr_icount (a : CodeAddr) (s : State) : (setRsr a s).icount = s.icount := rfl
@[simp] theorem setRsr_mulw (a : CodeAddr) (s : State) : (setRsr a s).mulw = s.mulw := rfl
@[simp] theorem setRsr_ram (a : CodeAddr) (s : State) : (setRsr a s).ram = s.ram := rfl
@[simp] theorem setRsr_rom (a : CodeAddr) (s : State) : (setRsr a s).rom = s.rom := rfl
@[simp] theorem setRsr_code (a : CodeAddr) (s : State) : (setRsr a s).code = s.code := rfl
@[simp] theorem setRsr_rsr (a : CodeAddr) (s : State) : (setRsr a s).rsr = a := rfl

/-! `setBar` -/

@[simp] theorem setBar_cfg (a : RamAddr) (s : State) : (setBar a s).cfg = s.cfg := rfl
@[simp] theorem setBar_gpr (a : RamAddr) (s : State) : (setBar a s).gpr = s.gpr := rfl
@[simp] theorem setBar_mac (a : RamAddr) (s : State) : (setBar a s).mac = s.mac := rfl
@[simp] theorem setBar_idx (a : RamAddr) (s : State) : (setBar a s).idx = s.idx := rfl
@[simp] theorem setBar_pcr (a : RamAddr) (s : State) : (setBar a s).pcr = s.pcr := rfl
@[simp] theorem setBar_rsr (a : RamAddr) (s : State) : (setBar a s).rsr = s.rsr := rfl
@[simp] theorem setBar_cmpf (a : RamAddr) (s : State) : (setBar a s).cmpf = s.cmpf := rfl
@[simp] theorem setBar_dsr (a : RamAddr) (s : State) : (setBar a s).dsr = s.dsr := rfl
@[simp] theorem setBar_psr (a : RamAddr) (s : State) : (setBar a s).psr = s.psr := rfl
@[simp] theorem setBar_flagsWritten (a : RamAddr) (s : State) : (setBar a s).flagsWritten = s.flagsWritten := rfl
@[simp] theorem setBar_loop (a : RamAddr) (s : State) : (setBar a s).loop = s.loop := rfl
@[simp] theorem setBar_wbbEmpty (a : RamAddr) (s : State) : (setBar a s).wbbEmpty = s.wbbEmpty := rfl
@[simp] theorem setBar_run (a : RamAddr) (s : State) : (setBar a s).run = s.run := rfl
@[simp] theorem setBar_ports (a : RamAddr) (s : State) : (setBar a s).ports = s.ports := rfl
@[simp] theorem setBar_pins (a : RamAddr) (s : State) : (setBar a s).pins = s.pins := rfl
@[simp] theorem setBar_env (a : RamAddr) (s : State) : (setBar a s).env = s.env := rfl
@[simp] theorem setBar_trace (a : RamAddr) (s : State) : (setBar a s).trace = s.trace := rfl
@[simp] theorem setBar_icount (a : RamAddr) (s : State) : (setBar a s).icount = s.icount := rfl
@[simp] theorem setBar_mulw (a : RamAddr) (s : State) : (setBar a s).mulw = s.mulw := rfl
@[simp] theorem setBar_ram (a : RamAddr) (s : State) : (setBar a s).ram = s.ram := rfl
@[simp] theorem setBar_rom (a : RamAddr) (s : State) : (setBar a s).rom = s.rom := rfl
@[simp] theorem setBar_code (a : RamAddr) (s : State) : (setBar a s).code = s.code := rfl
@[simp] theorem setBar_bar (a : RamAddr) (s : State) : (setBar a s).bar = a := rfl

/-! `setDsr` -/

@[simp] theorem setDsr_cfg (w : W32) (s : State) : (setDsr w s).cfg = s.cfg := rfl
@[simp] theorem setDsr_gpr (w : W32) (s : State) : (setDsr w s).gpr = s.gpr := rfl
@[simp] theorem setDsr_mac (w : W32) (s : State) : (setDsr w s).mac = s.mac := rfl
@[simp] theorem setDsr_idx (w : W32) (s : State) : (setDsr w s).idx = s.idx := rfl
@[simp] theorem setDsr_pcr (w : W32) (s : State) : (setDsr w s).pcr = s.pcr := rfl
@[simp] theorem setDsr_rsr (w : W32) (s : State) : (setDsr w s).rsr = s.rsr := rfl
@[simp] theorem setDsr_cmpf (w : W32) (s : State) : (setDsr w s).cmpf = s.cmpf := rfl
@[simp] theorem setDsr_bar (w : W32) (s : State) : (setDsr w s).bar = s.bar := rfl
@[simp] theorem setDsr_psr (w : W32) (s : State) : (setDsr w s).psr = s.psr := rfl
@[simp] theorem setDsr_flagsWritten (w : W32) (s : State) : (setDsr w s).flagsWritten = s.flagsWritten := rfl
@[simp] theorem setDsr_loop (w : W32) (s : State) : (setDsr w s).loop = s.loop := rfl
@[simp] theorem setDsr_wbbEmpty (w : W32) (s : State) : (setDsr w s).wbbEmpty = s.wbbEmpty := rfl
@[simp] theorem setDsr_run (w : W32) (s : State) : (setDsr w s).run = s.run := rfl
@[simp] theorem setDsr_ports (w : W32) (s : State) : (setDsr w s).ports = s.ports := rfl
@[simp] theorem setDsr_pins (w : W32) (s : State) : (setDsr w s).pins = s.pins := rfl
@[simp] theorem setDsr_env (w : W32) (s : State) : (setDsr w s).env = s.env := rfl
@[simp] theorem setDsr_trace (w : W32) (s : State) : (setDsr w s).trace = s.trace := rfl
@[simp] theorem setDsr_icount (w : W32) (s : State) : (setDsr w s).icount = s.icount := rfl
@[simp] theorem setDsr_mulw (w : W32) (s : State) : (setDsr w s).mulw = s.mulw := rfl
@[simp] theorem setDsr_ram (w : W32) (s : State) : (setDsr w s).ram = s.ram := rfl
@[simp] theorem setDsr_rom (w : W32) (s : State) : (setDsr w s).rom = s.rom := rfl
@[simp] theorem setDsr_code (w : W32) (s : State) : (setDsr w s).code = s.code := rfl
@[simp] theorem setDsr_dsr (w : W32) (s : State) : (setDsr w s).dsr = w := rfl

/-! `emptyWbb` -/

@[simp] theorem emptyWbb_cfg (s : State) : (emptyWbb s).cfg = s.cfg := rfl
@[simp] theorem emptyWbb_gpr (s : State) : (emptyWbb s).gpr = s.gpr := rfl
@[simp] theorem emptyWbb_mac (s : State) : (emptyWbb s).mac = s.mac := rfl
@[simp] theorem emptyWbb_idx (s : State) : (emptyWbb s).idx = s.idx := rfl
@[simp] theorem emptyWbb_pcr (s : State) : (emptyWbb s).pcr = s.pcr := rfl
@[simp] theorem emptyWbb_rsr (s : State) : (emptyWbb s).rsr = s.rsr := rfl
@[simp] theorem emptyWbb_cmpf (s : State) : (emptyWbb s).cmpf = s.cmpf := rfl
@[simp] theorem emptyWbb_bar (s : State) : (emptyWbb s).bar = s.bar := rfl
@[simp] theorem emptyWbb_dsr (s : State) : (emptyWbb s).dsr = s.dsr := rfl
@[simp] theorem emptyWbb_psr (s : State) : (emptyWbb s).psr = s.psr := rfl
@[simp] theorem emptyWbb_flagsWritten (s : State) : (emptyWbb s).flagsWritten = s.flagsWritten := rfl
@[simp] theorem emptyWbb_loop (s : State) : (emptyWbb s).loop = s.loop := rfl
@[simp] theorem emptyWbb_run (s : State) : (emptyWbb s).run = s.run := rfl
@[simp] theorem emptyWbb_ports (s : State) : (emptyWbb s).ports = s.ports := rfl
@[simp] theorem emptyWbb_pins (s : State) : (emptyWbb s).pins = s.pins := rfl
@[simp] theorem emptyWbb_env (s : State) : (emptyWbb s).env = s.env := rfl
@[simp] theorem emptyWbb_trace (s : State) : (emptyWbb s).trace = s.trace := rfl
@[simp] theorem emptyWbb_icount (s : State) : (emptyWbb s).icount = s.icount := rfl
@[simp] theorem emptyWbb_mulw (s : State) : (emptyWbb s).mulw = s.mulw := rfl
@[simp] theorem emptyWbb_ram (s : State) : (emptyWbb s).ram = s.ram := rfl
@[simp] theorem emptyWbb_rom (s : State) : (emptyWbb s).rom = s.rom := rfl
@[simp] theorem emptyWbb_code (s : State) : (emptyWbb s).code = s.code := rfl
@[simp] theorem emptyWbb_wbbEmpty (s : State) : (emptyWbb s).wbbEmpty = true := rfl

/-! `ctlOut` -/

@[simp] theorem ctlOut_cfg (w : Nat) (s : State) : (ctlOut w s).cfg = s.cfg := rfl
@[simp] theorem ctlOut_gpr (w : Nat) (s : State) : (ctlOut w s).gpr = s.gpr := rfl
@[simp] theorem ctlOut_mac (w : Nat) (s : State) : (ctlOut w s).mac = s.mac := rfl
@[simp] theorem ctlOut_idx (w : Nat) (s : State) : (ctlOut w s).idx = s.idx := rfl
@[simp] theorem ctlOut_pcr (w : Nat) (s : State) : (ctlOut w s).pcr = s.pcr := rfl
@[simp] theorem ctlOut_rsr (w : Nat) (s : State) : (ctlOut w s).rsr = s.rsr := rfl
@[simp] theorem ctlOut_cmpf (w : Nat) (s : State) : (ctlOut w s).cmpf = s.cmpf := rfl
@[simp] theorem ctlOut_bar (w : Nat) (s : State) : (ctlOut w s).bar = s.bar := rfl
@[simp] theorem ctlOut_dsr (w : Nat) (s : State) : (ctlOut w s).dsr = s.dsr := rfl
@[simp] theorem ctlOut_psr (w : Nat) (s : State) : (ctlOut w s).psr = s.psr := rfl
@[simp] theorem ctlOut_flagsWritten (w : Nat) (s : State) :
    (ctlOut w s).flagsWritten = s.flagsWritten := rfl
@[simp] theorem ctlOut_loop (w : Nat) (s : State) : (ctlOut w s).loop = s.loop := rfl
@[simp] theorem ctlOut_wbbEmpty (w : Nat) (s : State) : (ctlOut w s).wbbEmpty = s.wbbEmpty := rfl
@[simp] theorem ctlOut_run (w : Nat) (s : State) : (ctlOut w s).run = s.run := rfl
@[simp] theorem ctlOut_pins (w : Nat) (s : State) : (ctlOut w s).pins = s.pins := rfl
@[simp] theorem ctlOut_env (w : Nat) (s : State) : (ctlOut w s).env = s.env := rfl
@[simp] theorem ctlOut_icount (w : Nat) (s : State) : (ctlOut w s).icount = s.icount := rfl
@[simp] theorem ctlOut_mulw (w : Nat) (s : State) : (ctlOut w s).mulw = s.mulw := rfl
@[simp] theorem ctlOut_ram (w : Nat) (s : State) : (ctlOut w s).ram = s.ram := rfl
@[simp] theorem ctlOut_rom (w : Nat) (s : State) : (ctlOut w s).rom = s.rom := rfl
@[simp] theorem ctlOut_code (w : Nat) (s : State) : (ctlOut w s).code = s.code := rfl
@[simp] theorem ctlOut_ports (w : Nat) (s : State) :
    (ctlOut w s).ports = { s.ports with kout := w } := rfl
@[simp] theorem ctlOut_trace (w : Nat) (s : State) :
    (ctlOut w s).trace = .kout w :: s.trace := rfl

/-! The fields the other updates set. -/

@[simp] theorem setRun_run (r : Run) (s : State) : (setRun r s).run = r := rfl
@[simp] theorem emit_trace (e : Event) (s : State) : (emit e s).trace = e :: s.trace := rfl
@[simp] theorem ramWrite_wbbEmpty (a : RamAddr) (c : Cplx) (s : State) : (ramWrite a c s).wbbEmpty = false := rfl

/-! `setLoop` -/

@[simp] theorem setLoop_cfg (l : Loop) (s : State) : (setLoop l s).cfg = s.cfg := rfl
@[simp] theorem setLoop_gpr (l : Loop) (s : State) : (setLoop l s).gpr = s.gpr := rfl
@[simp] theorem setLoop_mac (l : Loop) (s : State) : (setLoop l s).mac = s.mac := rfl
@[simp] theorem setLoop_idx (l : Loop) (s : State) : (setLoop l s).idx = s.idx := rfl
@[simp] theorem setLoop_pcr (l : Loop) (s : State) : (setLoop l s).pcr = s.pcr := rfl
@[simp] theorem setLoop_rsr (l : Loop) (s : State) : (setLoop l s).rsr = s.rsr := rfl
@[simp] theorem setLoop_cmpf (l : Loop) (s : State) : (setLoop l s).cmpf = s.cmpf := rfl
@[simp] theorem setLoop_bar (l : Loop) (s : State) : (setLoop l s).bar = s.bar := rfl
@[simp] theorem setLoop_dsr (l : Loop) (s : State) : (setLoop l s).dsr = s.dsr := rfl
@[simp] theorem setLoop_psr (l : Loop) (s : State) : (setLoop l s).psr = s.psr := rfl
@[simp] theorem setLoop_flagsWritten (l : Loop) (s : State) : (setLoop l s).flagsWritten = s.flagsWritten := rfl
@[simp] theorem setLoop_wbbEmpty (l : Loop) (s : State) : (setLoop l s).wbbEmpty = s.wbbEmpty := rfl
@[simp] theorem setLoop_ports (l : Loop) (s : State) : (setLoop l s).ports = s.ports := rfl
@[simp] theorem setLoop_pins (l : Loop) (s : State) : (setLoop l s).pins = s.pins := rfl
@[simp] theorem setLoop_env (l : Loop) (s : State) : (setLoop l s).env = s.env := rfl
@[simp] theorem setLoop_trace (l : Loop) (s : State) : (setLoop l s).trace = s.trace := rfl
@[simp] theorem setLoop_icount (l : Loop) (s : State) : (setLoop l s).icount = s.icount := rfl
@[simp] theorem setLoop_mulw (l : Loop) (s : State) : (setLoop l s).mulw = s.mulw := rfl
@[simp] theorem setLoop_ram (l : Loop) (s : State) : (setLoop l s).ram = s.ram := rfl
@[simp] theorem setLoop_rom (l : Loop) (s : State) : (setLoop l s).rom = s.rom := rfl
@[simp] theorem setLoop_code (l : Loop) (s : State) : (setLoop l s).code = s.code := rfl
@[simp] theorem setLoop_run (l : Loop) (s : State) : (setLoop l s).run = s.run := rfl
@[simp] theorem setLoop_loop (l : Loop) (s : State) : (setLoop l s).loop = l := rfl

/-! `emit` -/

@[simp] theorem emit_cfg (e : Event) (s : State) : (emit e s).cfg = s.cfg := rfl
@[simp] theorem emit_gpr (e : Event) (s : State) : (emit e s).gpr = s.gpr := rfl
@[simp] theorem emit_mac (e : Event) (s : State) : (emit e s).mac = s.mac := rfl
@[simp] theorem emit_idx (e : Event) (s : State) : (emit e s).idx = s.idx := rfl
@[simp] theorem emit_pcr (e : Event) (s : State) : (emit e s).pcr = s.pcr := rfl
@[simp] theorem emit_rsr (e : Event) (s : State) : (emit e s).rsr = s.rsr := rfl
@[simp] theorem emit_cmpf (e : Event) (s : State) : (emit e s).cmpf = s.cmpf := rfl
@[simp] theorem emit_bar (e : Event) (s : State) : (emit e s).bar = s.bar := rfl
@[simp] theorem emit_dsr (e : Event) (s : State) : (emit e s).dsr = s.dsr := rfl
@[simp] theorem emit_psr (e : Event) (s : State) : (emit e s).psr = s.psr := rfl
@[simp] theorem emit_flagsWritten (e : Event) (s : State) : (emit e s).flagsWritten = s.flagsWritten := rfl
@[simp] theorem emit_loop (e : Event) (s : State) : (emit e s).loop = s.loop := rfl
@[simp] theorem emit_wbbEmpty (e : Event) (s : State) : (emit e s).wbbEmpty = s.wbbEmpty := rfl
@[simp] theorem emit_run (e : Event) (s : State) : (emit e s).run = s.run := rfl
@[simp] theorem emit_ports (e : Event) (s : State) : (emit e s).ports = s.ports := rfl
@[simp] theorem emit_pins (e : Event) (s : State) : (emit e s).pins = s.pins := rfl
@[simp] theorem emit_env (e : Event) (s : State) : (emit e s).env = s.env := rfl
@[simp] theorem emit_icount (e : Event) (s : State) : (emit e s).icount = s.icount := rfl
@[simp] theorem emit_mulw (e : Event) (s : State) : (emit e s).mulw = s.mulw := rfl
@[simp] theorem emit_ram (e : Event) (s : State) : (emit e s).ram = s.ram := rfl
@[simp] theorem emit_rom (e : Event) (s : State) : (emit e s).rom = s.rom := rfl
@[simp] theorem emit_code (e : Event) (s : State) : (emit e s).code = s.code := rfl

/-! `portOut` -/

@[simp] theorem portOut_cfg (p : Port) (w : W32) (s : State) : (portOut p w s).cfg = s.cfg := by cases p <;> rfl
@[simp] theorem portOut_gpr (p : Port) (w : W32) (s : State) : (portOut p w s).gpr = s.gpr := by cases p <;> rfl
@[simp] theorem portOut_mac (p : Port) (w : W32) (s : State) : (portOut p w s).mac = s.mac := by cases p <;> rfl
@[simp] theorem portOut_idx (p : Port) (w : W32) (s : State) : (portOut p w s).idx = s.idx := by cases p <;> rfl
@[simp] theorem portOut_pcr (p : Port) (w : W32) (s : State) : (portOut p w s).pcr = s.pcr := by cases p <;> rfl
@[simp] theorem portOut_rsr (p : Port) (w : W32) (s : State) : (portOut p w s).rsr = s.rsr := by cases p <;> rfl
@[simp] theorem portOut_cmpf (p : Port) (w : W32) (s : State) : (portOut p w s).cmpf = s.cmpf := by
    cases p <;> rfl
@[simp] theorem portOut_bar (p : Port) (w : W32) (s : State) : (portOut p w s).bar = s.bar := by cases p <;> rfl
@[simp] theorem portOut_dsr (p : Port) (w : W32) (s : State) : (portOut p w s).dsr = s.dsr := by cases p <;> rfl
@[simp] theorem portOut_psr (p : Port) (w : W32) (s : State) : (portOut p w s).psr = s.psr := by cases p <;> rfl
@[simp] theorem portOut_flagsWritten (p : Port) (w : W32) (s : State) :
    (portOut p w s).flagsWritten = s.flagsWritten := by cases p <;> rfl
@[simp] theorem portOut_loop (p : Port) (w : W32) (s : State) : (portOut p w s).loop = s.loop := by
    cases p <;> rfl
@[simp] theorem portOut_wbbEmpty (p : Port) (w : W32) (s : State) : (portOut p w s).wbbEmpty = s.wbbEmpty := by
    cases p <;> rfl
@[simp] theorem portOut_run (p : Port) (w : W32) (s : State) : (portOut p w s).run = s.run := by cases p <;> rfl
@[simp] theorem portOut_pins (p : Port) (w : W32) (s : State) : (portOut p w s).pins = s.pins := by
    cases p <;> rfl
@[simp] theorem portOut_env (p : Port) (w : W32) (s : State) : (portOut p w s).env = s.env := by cases p <;> rfl
@[simp] theorem portOut_icount (p : Port) (w : W32) (s : State) : (portOut p w s).icount = s.icount := by
    cases p <;> rfl
@[simp] theorem portOut_mulw (p : Port) (w : W32) (s : State) : (portOut p w s).mulw = s.mulw := by
    cases p <;> rfl
@[simp] theorem portOut_ram (p : Port) (w : W32) (s : State) : (portOut p w s).ram = s.ram := by cases p <;> rfl
@[simp] theorem portOut_rom (p : Port) (w : W32) (s : State) : (portOut p w s).rom = s.rom := by cases p <;> rfl
@[simp] theorem portOut_code (p : Port) (w : W32) (s : State) : (portOut p w s).code = s.code := by
    cases p <;> rfl

/-! `tick` -/

@[simp] theorem tick_cfg (s : State) : (tick s).cfg = s.cfg := by unfold tick; split <;> rfl
@[simp] theorem tick_gpr (s : State) : (tick s).gpr = s.gpr := by unfold tick; split <;> rfl
@[simp] theorem tick_mac (s : State) : (tick s).mac = s.mac := by unfold tick; split <;> rfl
@[simp] theorem tick_idx (s : State) : (tick s).idx = s.idx := by unfold tick; split <;> rfl
@[simp] theorem tick_pcr (s : State) : (tick s).pcr = s.pcr := by unfold tick; split <;> rfl
@[simp] theorem tick_rsr (s : State) : (tick s).rsr = s.rsr := by unfold tick; split <;> rfl
@[simp] theorem tick_cmpf (s : State) : (tick s).cmpf = s.cmpf := by unfold tick; split <;> rfl
@[simp] theorem tick_bar (s : State) : (tick s).bar = s.bar := by unfold tick; split <;> rfl
@[simp] theorem tick_dsr (s : State) : (tick s).dsr = s.dsr := by unfold tick; split <;> rfl
@[simp] theorem tick_psr (s : State) : (tick s).psr = s.psr := by unfold tick; split <;> rfl
@[simp] theorem tick_flagsWritten (s : State) : (tick s).flagsWritten = s.flagsWritten := by
    unfold tick; split <;> rfl
@[simp] theorem tick_loop (s : State) : (tick s).loop = s.loop := by unfold tick; split <;> rfl
@[simp] theorem tick_wbbEmpty (s : State) : (tick s).wbbEmpty = s.wbbEmpty := by unfold tick; split <;> rfl
@[simp] theorem tick_run (s : State) : (tick s).run = s.run := by unfold tick; split <;> rfl
@[simp] theorem tick_ports (s : State) : (tick s).ports = s.ports := by unfold tick; split <;> rfl
@[simp] theorem tick_trace (s : State) : (tick s).trace = s.trace := by unfold tick; split <;> rfl
@[simp] theorem tick_icount (s : State) : (tick s).icount = s.icount := by unfold tick; split <;> rfl
@[simp] theorem tick_mulw (s : State) : (tick s).mulw = s.mulw := by unfold tick; split <;> rfl
@[simp] theorem tick_ram (s : State) : (tick s).ram = s.ram := by unfold tick; split <;> rfl
@[simp] theorem tick_rom (s : State) : (tick s).rom = s.rom := by unfold tick; split <;> rfl
@[simp] theorem tick_code (s : State) : (tick s).code = s.code := by unfold tick; split <;> rfl

/-! `setIdx` -/

@[simp] theorem setIdx_cfg (k : XReg) (v : Index) (s : State) : (setIdx k v s).cfg = s.cfg := by cases k <;> rfl
@[simp] theorem setIdx_gpr (k : XReg) (v : Index) (s : State) : (setIdx k v s).gpr = s.gpr := by cases k <;> rfl
@[simp] theorem setIdx_mac (k : XReg) (v : Index) (s : State) : (setIdx k v s).mac = s.mac := by cases k <;> rfl
@[simp] theorem setIdx_pcr (k : XReg) (v : Index) (s : State) : (setIdx k v s).pcr = s.pcr := by cases k <;> rfl
@[simp] theorem setIdx_rsr (k : XReg) (v : Index) (s : State) : (setIdx k v s).rsr = s.rsr := by cases k <;> rfl
@[simp] theorem setIdx_cmpf (k : XReg) (v : Index) (s : State) : (setIdx k v s).cmpf = s.cmpf := by
    cases k <;> rfl
@[simp] theorem setIdx_bar (k : XReg) (v : Index) (s : State) : (setIdx k v s).bar = s.bar := by cases k <;> rfl
@[simp] theorem setIdx_dsr (k : XReg) (v : Index) (s : State) : (setIdx k v s).dsr = s.dsr := by cases k <;> rfl
@[simp] theorem setIdx_psr (k : XReg) (v : Index) (s : State) : (setIdx k v s).psr = s.psr := by cases k <;> rfl
@[simp] theorem setIdx_flagsWritten (k : XReg) (v : Index) (s : State) :
    (setIdx k v s).flagsWritten = s.flagsWritten := by cases k <;> rfl
@[simp] theorem setIdx_loop (k : XReg) (v : Index) (s : State) : (setIdx k v s).loop = s.loop := by
    cases k <;> rfl
@[simp] theorem setIdx_wbbEmpty (k : XReg) (v : Index) (s : State) : (setIdx k v s).wbbEmpty = s.wbbEmpty := by
    cases k <;> rfl
@[simp] theorem setIdx_run (k : XReg) (v : Index) (s : State) : (setIdx k v s).run = s.run := by cases k <;> rfl
@[simp] theorem setIdx_ports (k : XReg) (v : Index) (s : State) : (setIdx k v s).ports = s.ports := by
    cases k <;> rfl
@[simp] theorem setIdx_pins (k : XReg) (v : Index) (s : State) : (setIdx k v s).pins = s.pins := by
    cases k <;> rfl
@[simp] theorem setIdx_env (k : XReg) (v : Index) (s : State) : (setIdx k v s).env = s.env := by cases k <;> rfl
@[simp] theorem setIdx_trace (k : XReg) (v : Index) (s : State) : (setIdx k v s).trace = s.trace := by
    cases k <;> rfl
@[simp] theorem setIdx_icount (k : XReg) (v : Index) (s : State) : (setIdx k v s).icount = s.icount := by
    cases k <;> rfl
@[simp] theorem setIdx_mulw (k : XReg) (v : Index) (s : State) : (setIdx k v s).mulw = s.mulw := by
    cases k <;> rfl
@[simp] theorem setIdx_ram (k : XReg) (v : Index) (s : State) : (setIdx k v s).ram = s.ram := by cases k <;> rfl
@[simp] theorem setIdx_rom (k : XReg) (v : Index) (s : State) : (setIdx k v s).rom = s.rom := by cases k <;> rfl
@[simp] theorem setIdx_code (k : XReg) (v : Index) (s : State) : (setIdx k v s).code = s.code := by
    cases k <;> rfl

/-! `updateIdx` -/

@[simp] theorem updateIdx_cfg (k : XReg) (u : Upd) (s : State) : (updateIdx k u s).cfg = s.cfg := by
    cases k <;> rfl
@[simp] theorem updateIdx_gpr (k : XReg) (u : Upd) (s : State) : (updateIdx k u s).gpr = s.gpr := by
    cases k <;> rfl
@[simp] theorem updateIdx_mac (k : XReg) (u : Upd) (s : State) : (updateIdx k u s).mac = s.mac := by
    cases k <;> rfl
@[simp] theorem updateIdx_pcr (k : XReg) (u : Upd) (s : State) : (updateIdx k u s).pcr = s.pcr := by
    cases k <;> rfl
@[simp] theorem updateIdx_rsr (k : XReg) (u : Upd) (s : State) : (updateIdx k u s).rsr = s.rsr := by
    cases k <;> rfl
@[simp] theorem updateIdx_cmpf (k : XReg) (u : Upd) (s : State) : (updateIdx k u s).cmpf = s.cmpf := by
    cases k <;> rfl
@[simp] theorem updateIdx_bar (k : XReg) (u : Upd) (s : State) : (updateIdx k u s).bar = s.bar := by
    cases k <;> rfl
@[simp] theorem updateIdx_dsr (k : XReg) (u : Upd) (s : State) : (updateIdx k u s).dsr = s.dsr := by
    cases k <;> rfl
@[simp] theorem updateIdx_psr (k : XReg) (u : Upd) (s : State) : (updateIdx k u s).psr = s.psr := by
    cases k <;> rfl
@[simp] theorem updateIdx_flagsWritten (k : XReg) (u : Upd) (s : State) :
    (updateIdx k u s).flagsWritten = s.flagsWritten := by cases k <;> rfl
@[simp] theorem updateIdx_loop (k : XReg) (u : Upd) (s : State) : (updateIdx k u s).loop = s.loop := by
    cases k <;> rfl
@[simp] theorem updateIdx_wbbEmpty (k : XReg) (u : Upd) (s : State) :
    (updateIdx k u s).wbbEmpty = s.wbbEmpty := by cases k <;> rfl
@[simp] theorem updateIdx_run (k : XReg) (u : Upd) (s : State) : (updateIdx k u s).run = s.run := by
    cases k <;> rfl
@[simp] theorem updateIdx_ports (k : XReg) (u : Upd) (s : State) : (updateIdx k u s).ports = s.ports := by
    cases k <;> rfl
@[simp] theorem updateIdx_pins (k : XReg) (u : Upd) (s : State) : (updateIdx k u s).pins = s.pins := by
    cases k <;> rfl
@[simp] theorem updateIdx_env (k : XReg) (u : Upd) (s : State) : (updateIdx k u s).env = s.env := by
    cases k <;> rfl
@[simp] theorem updateIdx_trace (k : XReg) (u : Upd) (s : State) : (updateIdx k u s).trace = s.trace := by
    cases k <;> rfl
@[simp] theorem updateIdx_icount (k : XReg) (u : Upd) (s : State) : (updateIdx k u s).icount = s.icount := by
    cases k <;> rfl
@[simp] theorem updateIdx_mulw (k : XReg) (u : Upd) (s : State) : (updateIdx k u s).mulw = s.mulw := by
    cases k <;> rfl
@[simp] theorem updateIdx_ram (k : XReg) (u : Upd) (s : State) : (updateIdx k u s).ram = s.ram := by
    cases k <;> rfl
@[simp] theorem updateIdx_rom (k : XReg) (u : Upd) (s : State) : (updateIdx k u s).rom = s.rom := by
    cases k <;> rfl
@[simp] theorem updateIdx_code (k : XReg) (u : Upd) (s : State) : (updateIdx k u s).code = s.code := by
    cases k <;> rfl

/-! `update` -/

@[simp] theorem update_cfg (t : Operand) (s : State) : (update t s).cfg = s.cfg := by
    unfold update; split <;> simp
@[simp] theorem update_gpr (t : Operand) (s : State) : (update t s).gpr = s.gpr := by
    unfold update; split <;> simp
@[simp] theorem update_mac (t : Operand) (s : State) : (update t s).mac = s.mac := by
    unfold update; split <;> simp
@[simp] theorem update_pcr (t : Operand) (s : State) : (update t s).pcr = s.pcr := by
    unfold update; split <;> simp
@[simp] theorem update_rsr (t : Operand) (s : State) : (update t s).rsr = s.rsr := by
    unfold update; split <;> simp
@[simp] theorem update_cmpf (t : Operand) (s : State) : (update t s).cmpf = s.cmpf := by
    unfold update; split <;> simp
@[simp] theorem update_bar (t : Operand) (s : State) : (update t s).bar = s.bar := by
    unfold update; split <;> simp
@[simp] theorem update_dsr (t : Operand) (s : State) : (update t s).dsr = s.dsr := by
    unfold update; split <;> simp
@[simp] theorem update_psr (t : Operand) (s : State) : (update t s).psr = s.psr := by
    unfold update; split <;> simp
@[simp] theorem update_flagsWritten (t : Operand) (s : State) : (update t s).flagsWritten = s.flagsWritten := by
    unfold update; split <;> simp
@[simp] theorem update_loop (t : Operand) (s : State) : (update t s).loop = s.loop := by
    unfold update; split <;> simp
@[simp] theorem update_wbbEmpty (t : Operand) (s : State) : (update t s).wbbEmpty = s.wbbEmpty := by
    unfold update; split <;> simp
@[simp] theorem update_run (t : Operand) (s : State) : (update t s).run = s.run := by
    unfold update; split <;> simp
@[simp] theorem update_ports (t : Operand) (s : State) : (update t s).ports = s.ports := by
    unfold update; split <;> simp
@[simp] theorem update_pins (t : Operand) (s : State) : (update t s).pins = s.pins := by
    unfold update; split <;> simp
@[simp] theorem update_env (t : Operand) (s : State) : (update t s).env = s.env := by
    unfold update; split <;> simp
@[simp] theorem update_trace (t : Operand) (s : State) : (update t s).trace = s.trace := by
    unfold update; split <;> simp
@[simp] theorem update_icount (t : Operand) (s : State) : (update t s).icount = s.icount := by
    unfold update; split <;> simp
@[simp] theorem update_mulw (t : Operand) (s : State) : (update t s).mulw = s.mulw := by
    unfold update; split <;> simp
@[simp] theorem update_ram (t : Operand) (s : State) : (update t s).ram = s.ram := by
    unfold update; split <;> simp
@[simp] theorem update_rom (t : Operand) (s : State) : (update t s).rom = s.rom := by
    unfold update; split <;> simp
@[simp] theorem update_code (t : Operand) (s : State) : (update t s).code = s.code := by
    unfold update; split <;> simp

/-! `ramWrite` -/

@[simp] theorem ramWrite_cfg (a : RamAddr) (c : Cplx) (s : State) : (ramWrite a c s).cfg = s.cfg := rfl
@[simp] theorem ramWrite_gpr (a : RamAddr) (c : Cplx) (s : State) : (ramWrite a c s).gpr = s.gpr := rfl
@[simp] theorem ramWrite_mac (a : RamAddr) (c : Cplx) (s : State) : (ramWrite a c s).mac = s.mac := rfl
@[simp] theorem ramWrite_idx (a : RamAddr) (c : Cplx) (s : State) : (ramWrite a c s).idx = s.idx := rfl
@[simp] theorem ramWrite_pcr (a : RamAddr) (c : Cplx) (s : State) : (ramWrite a c s).pcr = s.pcr := rfl
@[simp] theorem ramWrite_rsr (a : RamAddr) (c : Cplx) (s : State) : (ramWrite a c s).rsr = s.rsr := rfl
@[simp] theorem ramWrite_cmpf (a : RamAddr) (c : Cplx) (s : State) : (ramWrite a c s).cmpf = s.cmpf := rfl
@[simp] theorem ramWrite_bar (a : RamAddr) (c : Cplx) (s : State) : (ramWrite a c s).bar = s.bar := rfl
@[simp] theorem ramWrite_dsr (a : RamAddr) (c : Cplx) (s : State) : (ramWrite a c s).dsr = s.dsr := rfl
@[simp] theorem ramWrite_psr (a : RamAddr) (c : Cplx) (s : State) : (ramWrite a c s).psr = s.psr := rfl
@[simp] theorem ramWrite_flagsWritten (a : RamAddr) (c : Cplx) (s : State) :
    (ramWrite a c s).flagsWritten = s.flagsWritten := rfl
@[simp] theorem ramWrite_loop (a : RamAddr) (c : Cplx) (s : State) : (ramWrite a c s).loop = s.loop := rfl
@[simp] theorem ramWrite_run (a : RamAddr) (c : Cplx) (s : State) : (ramWrite a c s).run = s.run := rfl
@[simp] theorem ramWrite_ports (a : RamAddr) (c : Cplx) (s : State) : (ramWrite a c s).ports = s.ports := rfl
@[simp] theorem ramWrite_pins (a : RamAddr) (c : Cplx) (s : State) : (ramWrite a c s).pins = s.pins := rfl
@[simp] theorem ramWrite_env (a : RamAddr) (c : Cplx) (s : State) : (ramWrite a c s).env = s.env := rfl
@[simp] theorem ramWrite_trace (a : RamAddr) (c : Cplx) (s : State) : (ramWrite a c s).trace = s.trace := rfl
@[simp] theorem ramWrite_icount (a : RamAddr) (c : Cplx) (s : State) : (ramWrite a c s).icount = s.icount := rfl
@[simp] theorem ramWrite_mulw (a : RamAddr) (c : Cplx) (s : State) : (ramWrite a c s).mulw = s.mulw := rfl
@[simp] theorem ramWrite_rom (a : RamAddr) (c : Cplx) (s : State) : (ramWrite a c s).rom = s.rom := rfl
@[simp] theorem ramWrite_code (a : RamAddr) (c : Cplx) (s : State) : (ramWrite a c s).code = s.code := rfl

/-! `setAluFlags` -/

@[simp] theorem setAluFlags_cfg (r i : Bool) (s : State) : (setAluFlags r i s).cfg = s.cfg := rfl
@[simp] theorem setAluFlags_gpr (r i : Bool) (s : State) : (setAluFlags r i s).gpr = s.gpr := rfl
@[simp] theorem setAluFlags_mac (r i : Bool) (s : State) : (setAluFlags r i s).mac = s.mac := rfl
@[simp] theorem setAluFlags_idx (r i : Bool) (s : State) : (setAluFlags r i s).idx = s.idx := rfl
@[simp] theorem setAluFlags_pcr (r i : Bool) (s : State) : (setAluFlags r i s).pcr = s.pcr := rfl
@[simp] theorem setAluFlags_rsr (r i : Bool) (s : State) : (setAluFlags r i s).rsr = s.rsr := rfl
@[simp] theorem setAluFlags_cmpf (r i : Bool) (s : State) : (setAluFlags r i s).cmpf = s.cmpf := rfl
@[simp] theorem setAluFlags_bar (r i : Bool) (s : State) : (setAluFlags r i s).bar = s.bar := rfl
@[simp] theorem setAluFlags_dsr (r i : Bool) (s : State) : (setAluFlags r i s).dsr = s.dsr := rfl
@[simp] theorem setAluFlags_loop (r i : Bool) (s : State) : (setAluFlags r i s).loop = s.loop := rfl
@[simp] theorem setAluFlags_wbbEmpty (r i : Bool) (s : State) : (setAluFlags r i s).wbbEmpty = s.wbbEmpty := rfl
@[simp] theorem setAluFlags_run (r i : Bool) (s : State) : (setAluFlags r i s).run = s.run := rfl
@[simp] theorem setAluFlags_ports (r i : Bool) (s : State) : (setAluFlags r i s).ports = s.ports := rfl
@[simp] theorem setAluFlags_pins (r i : Bool) (s : State) : (setAluFlags r i s).pins = s.pins := rfl
@[simp] theorem setAluFlags_env (r i : Bool) (s : State) : (setAluFlags r i s).env = s.env := rfl
@[simp] theorem setAluFlags_trace (r i : Bool) (s : State) : (setAluFlags r i s).trace = s.trace := rfl
@[simp] theorem setAluFlags_icount (r i : Bool) (s : State) : (setAluFlags r i s).icount = s.icount := rfl
@[simp] theorem setAluFlags_mulw (r i : Bool) (s : State) : (setAluFlags r i s).mulw = s.mulw := rfl
@[simp] theorem setAluFlags_ram (r i : Bool) (s : State) : (setAluFlags r i s).ram = s.ram := rfl
@[simp] theorem setAluFlags_rom (r i : Bool) (s : State) : (setAluFlags r i s).rom = s.rom := rfl
@[simp] theorem setAluFlags_code (r i : Bool) (s : State) : (setAluFlags r i s).code = s.code := rfl

/-! `macClear` -/

@[simp] theorem macClear_cfg (s : State) : (macClear s).cfg = s.cfg := rfl
@[simp] theorem macClear_gpr (s : State) : (macClear s).gpr = s.gpr := rfl
@[simp] theorem macClear_idx (s : State) : (macClear s).idx = s.idx := rfl
@[simp] theorem macClear_pcr (s : State) : (macClear s).pcr = s.pcr := rfl
@[simp] theorem macClear_rsr (s : State) : (macClear s).rsr = s.rsr := rfl
@[simp] theorem macClear_cmpf (s : State) : (macClear s).cmpf = s.cmpf := rfl
@[simp] theorem macClear_bar (s : State) : (macClear s).bar = s.bar := rfl
@[simp] theorem macClear_dsr (s : State) : (macClear s).dsr = s.dsr := rfl
@[simp] theorem macClear_loop (s : State) : (macClear s).loop = s.loop := rfl
@[simp] theorem macClear_wbbEmpty (s : State) : (macClear s).wbbEmpty = s.wbbEmpty := rfl
@[simp] theorem macClear_run (s : State) : (macClear s).run = s.run := rfl
@[simp] theorem macClear_ports (s : State) : (macClear s).ports = s.ports := rfl
@[simp] theorem macClear_pins (s : State) : (macClear s).pins = s.pins := rfl
@[simp] theorem macClear_env (s : State) : (macClear s).env = s.env := rfl
@[simp] theorem macClear_trace (s : State) : (macClear s).trace = s.trace := rfl
@[simp] theorem macClear_icount (s : State) : (macClear s).icount = s.icount := rfl
@[simp] theorem macClear_mulw (s : State) : (macClear s).mulw = s.mulw := rfl
@[simp] theorem macClear_ram (s : State) : (macClear s).ram = s.ram := rfl
@[simp] theorem macClear_rom (s : State) : (macClear s).rom = s.rom := rfl
@[simp] theorem macClear_code (s : State) : (macClear s).code = s.code := rfl

/-! `writePsr` -/

@[simp] theorem writePsr_cfg (w : W32) (s : State) : (writePsr w s).cfg = s.cfg := by
    unfold writePsr; simp only; split <;> rfl
@[simp] theorem writePsr_gpr (w : W32) (s : State) : (writePsr w s).gpr = s.gpr := by
    unfold writePsr; simp only; split <;> rfl
@[simp] theorem writePsr_idx (w : W32) (s : State) : (writePsr w s).idx = s.idx := by
    unfold writePsr; simp only; split <;> rfl
@[simp] theorem writePsr_pcr (w : W32) (s : State) : (writePsr w s).pcr = s.pcr := by
    unfold writePsr; simp only; split <;> rfl
@[simp] theorem writePsr_rsr (w : W32) (s : State) : (writePsr w s).rsr = s.rsr := by
    unfold writePsr; simp only; split <;> rfl
@[simp] theorem writePsr_cmpf (w : W32) (s : State) : (writePsr w s).cmpf = s.cmpf := by
    unfold writePsr; simp only; split <;> rfl
@[simp] theorem writePsr_bar (w : W32) (s : State) : (writePsr w s).bar = s.bar := by
    unfold writePsr; simp only; split <;> rfl
@[simp] theorem writePsr_dsr (w : W32) (s : State) : (writePsr w s).dsr = s.dsr := by
    unfold writePsr; simp only; split <;> rfl
@[simp] theorem writePsr_loop (w : W32) (s : State) : (writePsr w s).loop = s.loop := by
    unfold writePsr; simp only; split <;> rfl
@[simp] theorem writePsr_wbbEmpty (w : W32) (s : State) : (writePsr w s).wbbEmpty = s.wbbEmpty := by
    unfold writePsr; simp only; split <;> rfl
@[simp] theorem writePsr_run (w : W32) (s : State) : (writePsr w s).run = s.run := by
    unfold writePsr; simp only; split <;> rfl
@[simp] theorem writePsr_ports (w : W32) (s : State) : (writePsr w s).ports = s.ports := by
    unfold writePsr; simp only; split <;> rfl
@[simp] theorem writePsr_pins (w : W32) (s : State) : (writePsr w s).pins = s.pins := by
    unfold writePsr; simp only; split <;> rfl
@[simp] theorem writePsr_env (w : W32) (s : State) : (writePsr w s).env = s.env := by
    unfold writePsr; simp only; split <;> rfl
@[simp] theorem writePsr_trace (w : W32) (s : State) : (writePsr w s).trace = s.trace := by
    unfold writePsr; simp only; split <;> rfl
@[simp] theorem writePsr_icount (w : W32) (s : State) : (writePsr w s).icount = s.icount := by
    unfold writePsr; simp only; split <;> rfl
@[simp] theorem writePsr_ram (w : W32) (s : State) : (writePsr w s).ram = s.ram := by
    unfold writePsr; simp only; split <;> rfl
@[simp] theorem writePsr_rom (w : W32) (s : State) : (writePsr w s).rom = s.rom := by
    unfold writePsr; simp only; split <;> rfl
@[simp] theorem writePsr_code (w : W32) (s : State) : (writePsr w s).code = s.code := by
    unfold writePsr; simp only; split <;> rfl

/-! `writeR7` -/

@[simp] theorem writeR7_cfg (v : Cplx) (t : Option Operand) (s : State) : (writeR7 v t s).cfg = s.cfg := by
    unfold writeR7; simp only; split <;> simp
@[simp] theorem writeR7_gpr (v : Cplx) (t : Option Operand) (s : State) : (writeR7 v t s).gpr = s.gpr := by
    unfold writeR7; simp only; split <;> simp
@[simp] theorem writeR7_pcr (v : Cplx) (t : Option Operand) (s : State) : (writeR7 v t s).pcr = s.pcr := by
    unfold writeR7; simp only; split <;> simp
@[simp] theorem writeR7_rsr (v : Cplx) (t : Option Operand) (s : State) : (writeR7 v t s).rsr = s.rsr := by
    unfold writeR7; simp only; split <;> simp
@[simp] theorem writeR7_cmpf (v : Cplx) (t : Option Operand) (s : State) : (writeR7 v t s).cmpf = s.cmpf := by
    unfold writeR7; simp only; split <;> simp
@[simp] theorem writeR7_bar (v : Cplx) (t : Option Operand) (s : State) : (writeR7 v t s).bar = s.bar := by
    unfold writeR7; simp only; split <;> simp
@[simp] theorem writeR7_dsr (v : Cplx) (t : Option Operand) (s : State) : (writeR7 v t s).dsr = s.dsr := by
    unfold writeR7; simp only; split <;> simp
@[simp] theorem writeR7_loop (v : Cplx) (t : Option Operand) (s : State) : (writeR7 v t s).loop = s.loop := by
    unfold writeR7; simp only; split <;> simp
@[simp] theorem writeR7_wbbEmpty (v : Cplx) (t : Option Operand) (s : State) :
    (writeR7 v t s).wbbEmpty = s.wbbEmpty := by unfold writeR7; simp only; split <;> simp
@[simp] theorem writeR7_run (v : Cplx) (t : Option Operand) (s : State) : (writeR7 v t s).run = s.run := by
    unfold writeR7; simp only; split <;> simp
@[simp] theorem writeR7_ports (v : Cplx) (t : Option Operand) (s : State) : (writeR7 v t s).ports = s.ports := by
    unfold writeR7; simp only; split <;> simp
@[simp] theorem writeR7_pins (v : Cplx) (t : Option Operand) (s : State) : (writeR7 v t s).pins = s.pins := by
    unfold writeR7; simp only; split <;> simp
@[simp] theorem writeR7_env (v : Cplx) (t : Option Operand) (s : State) : (writeR7 v t s).env = s.env := by
    unfold writeR7; simp only; split <;> simp
@[simp] theorem writeR7_trace (v : Cplx) (t : Option Operand) (s : State) : (writeR7 v t s).trace = s.trace := by
    unfold writeR7; simp only; split <;> simp
@[simp] theorem writeR7_icount (v : Cplx) (t : Option Operand) (s : State) :
    (writeR7 v t s).icount = s.icount := by unfold writeR7; simp only; split <;> simp
@[simp] theorem writeR7_ram (v : Cplx) (t : Option Operand) (s : State) : (writeR7 v t s).ram = s.ram := by
    unfold writeR7; simp only; split <;> simp
@[simp] theorem writeR7_rom (v : Cplx) (t : Option Operand) (s : State) : (writeR7 v t s).rom = s.rom := by
    unfold writeR7; simp only; split <;> simp
@[simp] theorem writeR7_code (v : Cplx) (t : Option Operand) (s : State) : (writeR7 v t s).code = s.code := by
    unfold writeR7; simp only; split <;> simp

/-! `writeReg` -/

@[simp] theorem writeReg_cfg (i : Reg) (c : Cplx) (t : Option Operand) (s : State) :
    (writeReg i c t s).cfg = s.cfg := by cases i <;> first | rfl | simp [writeReg]
@[simp] theorem writeReg_pcr (i : Reg) (c : Cplx) (t : Option Operand) (s : State) :
    (writeReg i c t s).pcr = s.pcr := by cases i <;> first | rfl | simp [writeReg]
@[simp] theorem writeReg_rsr (i : Reg) (c : Cplx) (t : Option Operand) (s : State) :
    (writeReg i c t s).rsr = s.rsr := by cases i <;> first | rfl | simp [writeReg]
@[simp] theorem writeReg_cmpf (i : Reg) (c : Cplx) (t : Option Operand) (s : State) :
    (writeReg i c t s).cmpf = s.cmpf := by cases i <;> first | rfl | simp [writeReg]
@[simp] theorem writeReg_bar (i : Reg) (c : Cplx) (t : Option Operand) (s : State) :
    (writeReg i c t s).bar = s.bar := by cases i <;> first | rfl | simp [writeReg]
@[simp] theorem writeReg_dsr (i : Reg) (c : Cplx) (t : Option Operand) (s : State) :
    (writeReg i c t s).dsr = s.dsr := by cases i <;> first | rfl | simp [writeReg]
@[simp] theorem writeReg_loop (i : Reg) (c : Cplx) (t : Option Operand) (s : State) :
    (writeReg i c t s).loop = s.loop := by cases i <;> first | rfl | simp [writeReg]
@[simp] theorem writeReg_wbbEmpty (i : Reg) (c : Cplx) (t : Option Operand) (s : State) :
    (writeReg i c t s).wbbEmpty = s.wbbEmpty := by cases i <;> first | rfl | simp [writeReg]
@[simp] theorem writeReg_run (i : Reg) (c : Cplx) (t : Option Operand) (s : State) :
    (writeReg i c t s).run = s.run := by cases i <;> first | rfl | simp [writeReg]
@[simp] theorem writeReg_ports (i : Reg) (c : Cplx) (t : Option Operand) (s : State) :
    (writeReg i c t s).ports = s.ports := by cases i <;> first | rfl | simp [writeReg]
@[simp] theorem writeReg_pins (i : Reg) (c : Cplx) (t : Option Operand) (s : State) :
    (writeReg i c t s).pins = s.pins := by cases i <;> first | rfl | simp [writeReg]
@[simp] theorem writeReg_env (i : Reg) (c : Cplx) (t : Option Operand) (s : State) :
    (writeReg i c t s).env = s.env := by cases i <;> first | rfl | simp [writeReg]
@[simp] theorem writeReg_trace (i : Reg) (c : Cplx) (t : Option Operand) (s : State) :
    (writeReg i c t s).trace = s.trace := by cases i <;> first | rfl | simp [writeReg]
@[simp] theorem writeReg_icount (i : Reg) (c : Cplx) (t : Option Operand) (s : State) :
    (writeReg i c t s).icount = s.icount := by cases i <;> first | rfl | simp [writeReg]
@[simp] theorem writeReg_ram (i : Reg) (c : Cplx) (t : Option Operand) (s : State) :
    (writeReg i c t s).ram = s.ram := by cases i <;> first | rfl | simp [writeReg]
@[simp] theorem writeReg_rom (i : Reg) (c : Cplx) (t : Option Operand) (s : State) :
    (writeReg i c t s).rom = s.rom := by cases i <;> first | rfl | simp [writeReg]
@[simp] theorem writeReg_code (i : Reg) (c : Cplx) (t : Option Operand) (s : State) :
    (writeReg i c t s).code = s.code := by cases i <;> first | rfl | simp [writeReg]

/-! `forgetReg` -/

@[simp] theorem forgetReg_cfg (i : Reg) (s : State) : (forgetReg i s).cfg = s.cfg := by cases i <;> rfl
@[simp] theorem forgetReg_idx (i : Reg) (s : State) : (forgetReg i s).idx = s.idx := by cases i <;> rfl
@[simp] theorem forgetReg_pcr (i : Reg) (s : State) : (forgetReg i s).pcr = s.pcr := by cases i <;> rfl
@[simp] theorem forgetReg_rsr (i : Reg) (s : State) : (forgetReg i s).rsr = s.rsr := by cases i <;> rfl
@[simp] theorem forgetReg_cmpf (i : Reg) (s : State) : (forgetReg i s).cmpf = s.cmpf := by cases i <;> rfl
@[simp] theorem forgetReg_bar (i : Reg) (s : State) : (forgetReg i s).bar = s.bar := by cases i <;> rfl
@[simp] theorem forgetReg_dsr (i : Reg) (s : State) : (forgetReg i s).dsr = s.dsr := by cases i <;> rfl
@[simp] theorem forgetReg_psr (i : Reg) (s : State) : (forgetReg i s).psr = s.psr := by cases i <;> rfl
@[simp] theorem forgetReg_flagsWritten (i : Reg) (s : State) :
    (forgetReg i s).flagsWritten = s.flagsWritten := by cases i <;> rfl
@[simp] theorem forgetReg_loop (i : Reg) (s : State) : (forgetReg i s).loop = s.loop := by cases i <;> rfl
@[simp] theorem forgetReg_wbbEmpty (i : Reg) (s : State) : (forgetReg i s).wbbEmpty = s.wbbEmpty := by
    cases i <;> rfl
@[simp] theorem forgetReg_run (i : Reg) (s : State) : (forgetReg i s).run = s.run := by cases i <;> rfl
@[simp] theorem forgetReg_ports (i : Reg) (s : State) : (forgetReg i s).ports = s.ports := by cases i <;> rfl
@[simp] theorem forgetReg_pins (i : Reg) (s : State) : (forgetReg i s).pins = s.pins := by cases i <;> rfl
@[simp] theorem forgetReg_env (i : Reg) (s : State) : (forgetReg i s).env = s.env := by cases i <;> rfl
@[simp] theorem forgetReg_trace (i : Reg) (s : State) : (forgetReg i s).trace = s.trace := by cases i <;> rfl
@[simp] theorem forgetReg_icount (i : Reg) (s : State) : (forgetReg i s).icount = s.icount := by cases i <;> rfl
@[simp] theorem forgetReg_ram (i : Reg) (s : State) : (forgetReg i s).ram = s.ram := by cases i <;> rfl
@[simp] theorem forgetReg_rom (i : Reg) (s : State) : (forgetReg i s).rom = s.rom := by cases i <;> rfl
@[simp] theorem forgetReg_code (i : Reg) (s : State) : (forgetReg i s).code = s.code := by cases i <;> rfl

end Sys2Proof.Machine
end

