-- ==== Sys2Proof/Laws/Memory.lean ====
section
/-!
SUPPORT. Reading after writing, and the canonical form that every memory operation keeps.
-/

namespace Sys2Proof.Machine

variable {α : Type}

@[simp] theorem Memory.lookup_insert_same (a : Nat) (v : α) (m : Memory α) :
    Memory.lookup a (Memory.insert a v m) = some v := by
  induction m with
  | nil => simp [Memory.insert, Memory.lookup]
  | cons e m ih =>
    obtain ⟨b, w⟩ := e
    by_cases h1 : a < b
    · simp [Memory.insert, Memory.lookup, h1]
    · by_cases h2 : a = b
      · simp [Memory.insert, Memory.lookup, h2]
      · simp [Memory.insert, Memory.lookup, h1, h2, ih]

theorem Memory.lookup_insert_ne {a b : Nat} (h : b ≠ a) (v : α) (m : Memory α) :
    Memory.lookup b (Memory.insert a v m) = Memory.lookup b m := by
  induction m with
  | nil => simp [Memory.insert, Memory.lookup, h]
  | cons e m ih =>
    obtain ⟨c, w⟩ := e
    by_cases h1 : a < c
    · simp [Memory.insert, Memory.lookup, h1, h]
    · by_cases h2 : a = c
      · subst h2
        simp [Memory.insert, Memory.lookup, h]
      · simp [Memory.insert, Memory.lookup, h1, h2, ih]

theorem Memory.risingFrom_mono {lo hi : Nat} (h : lo ≤ hi) :
    ∀ {m : Memory α}, Memory.risingFrom hi m = true → Memory.risingFrom lo m = true
  | [], _ => rfl
  | (a, v) :: m, hm => by
    simp only [Memory.risingFrom, Bool.and_eq_true, decide_eq_true_eq] at hm ⊢
    exact ⟨h.trans hm.1, hm.2⟩

/-- Writing at an address from `lo` on keeps the rising order. -/
theorem Memory.risingFrom_insert (a : Nat) (v : α) :
    ∀ (m : Memory α) (lo : Nat), lo ≤ a → Memory.risingFrom lo m = true →
      Memory.risingFrom lo (Memory.insert a v m) = true
  | [], lo, h, _ => by simp [Memory.insert, Memory.risingFrom, h]
  | (b, w) :: m, lo, h, hm => by
    simp only [Memory.risingFrom, Bool.and_eq_true, decide_eq_true_eq] at hm
    by_cases h1 : a < b
    · simp [Memory.insert, Memory.risingFrom, h1, h, hm.2, Nat.succ_le_of_lt h1]
    · by_cases h2 : a = b
      · subst h2
        simp [Memory.insert, Memory.risingFrom, h, hm.2]
      · have h3 : b + 1 ≤ a := by omega
        simp [Memory.insert, Memory.risingFrom, h1, h2, hm.1, Memory.risingFrom_insert a v m (b + 1) h3 hm.2]

theorem Memory.all_insert (p : Nat × α → Bool) (a : Nat) (v : α) (m : Memory α) (hv : p (a, v) = true)
    (hm : m.all p = true) : (Memory.insert a v m).all p = true := by
  induction m with
  | nil => simp [Memory.insert, hv]
  | cons e m ih =>
    obtain ⟨b, w⟩ := e
    simp only [List.all_cons, Bool.and_eq_true] at hm
    by_cases h1 : a < b
    · simp [Memory.insert, h1, hv, hm.1, hm.2]
    · by_cases h2 : a = b
      · subst h2
        simp [Memory.insert, hv, hm.2]
      · simp [Memory.insert, h1, h2, hm.1, ih hm.2]

/-- The canonical form is kept by a write of an entry that the memory may list. -/
theorem Memory.wf_insert {ok : Nat → α → Bool} {a : Nat} {v : α} {m : Memory α} (hv : ok a v = true)
    (hm : Memory.wf ok m = true) : Memory.wf ok (Memory.insert a v m) = true := by
  simp only [Memory.wf, Bool.and_eq_true] at hm ⊢
  exact ⟨Memory.risingFrom_insert a v m 0 (Nat.zero_le a) hm.1, Memory.all_insert _ a v m hv hm.2⟩

theorem inArea_idem (areas : List Config.Area) (a : Nat) (c : Cplx) :
    inArea areas a (inArea areas a c) = inArea areas a c := by
  unfold inArea
  split <;> rfl

/-- Every RAM write keeps the canonical form. -/
theorem ramWrite_wf (a : RamAddr) (c : Cplx) (s : State) (h :
    Memory.wf (ramEntryOk s.cfg.ramInt) s.ram = true) :
    Memory.wf (ramEntryOk s.cfg.ramInt) (ramWrite a c s).ram = true := by
  refine Memory.wf_insert ?_ h
  simp [ramEntryOk, inArea_idem, a.isLt]

/-- Placing a word in the CodeROM keeps the canonical form. -/
theorem withFetchWord_wf (s : State) (n w : Nat) (h : Memory.wf codeEntryOk s.code = true) :
    Memory.wf codeEntryOk (s.withFetchWord n w).code = true :=
  Memory.wf_insert (by simp [codeEntryOk, s.pcr.isLt]) h

@[simp] theorem ramRead_ramWrite_same (a : RamAddr) (c : Cplx) (s : State) :
    ramRead a (ramWrite a c s) = some (inArea s.cfg.ramInt a.toNat c) := by
  simp [ramRead, ramWrite, inArea_idem]

theorem ramRead_ramWrite_ne {a b : RamAddr} (h : b ≠ a) (c : Cplx) (s : State) :
    ramRead b (ramWrite a c s) = ramRead b s := by
  have : b.toNat ≠ a.toNat := fun e => h (BitVec.eq_of_toNat_eq e)
  simp [ramRead, ramWrite, Memory.lookup_insert_ne this]

/-- A RAM read depends on the RAM and the areas alone. -/
theorem ramRead_congr {s s' : State} (hr : s'.ram = s.ram) (hc : s'.cfg = s.cfg) (a : RamAddr) :
    ramRead a s' = ramRead a s := by
  simp [ramRead, hr, hc]

end Sys2Proof.Machine
end

