-- ==== Sys2Proof/Laws/Operands.lean ====
section
/-!
SUPPORT. Once for each shared operation: everything it can do when it answers. The provers cite these
instead of unfolding `load`, `store`, `onLoad`, `onWrite` and the shapes over them.
-/

namespace Sys2Proof.Machine

/-! ## Completion -/

@[simp] theorem nextAddress_setCmpf (s : State) : nextAddress (setCmpf s) = nextAddress s := rfl
@[simp] theorem setCmpf_cmpf (s : State) : (setCmpf s).cmpf = true := rfl
@[simp] theorem complete_cmpf (s : State) : (complete s).cmpf = true := rfl
@[simp] theorem complete_pcr (s : State) : (complete s).pcr = (nextAddress s).1 := rfl
@[simp] theorem complete_loop (s : State) : (complete s).loop = (nextAddress s).2 := rfl
@[simp] theorem complete_icount (s : State) : (complete s).icount = s.icount + 1 := rfl
@[simp] theorem advance_pcr (s : State) : (advance s).pcr = (nextAddress s).1 := rfl
@[simp] theorem advance_loop (s : State) : (advance s).loop = (nextAddress s).2 := rfl
@[simp] theorem advance_icount (s : State) : (advance s).icount = s.icount + 1 := rfl
@[simp] theorem branchTo_cmpf (a : CodeAddr) (s : State) : (branchTo a s).cmpf = true := rfl
@[simp] theorem branchTo_pcr (a : CodeAddr) (s : State) : (branchTo a s).pcr = a := rfl
@[simp] theorem branchTo_loop (a : CodeAddr) (s : State) : (branchTo a s).loop = (nextAddress s).2 := rfl
@[simp] theorem branchTo_icount (a : CodeAddr) (s : State) : (branchTo a s).icount = s.icount + 1 := rfl
@[simp] theorem branchIf_cmpf (c : Bool) (a : CodeAddr) (s : State) : (branchIf c a s).cmpf = true := by
  cases c <;> rfl
@[simp] theorem branchIf_loop (c : Bool) (a : CodeAddr) (s : State) :
    (branchIf c a s).loop = (nextAddress s).2 := by cases c <;> rfl
@[simp] theorem branchIf_icount (c : Bool) (a : CodeAddr) (s : State) :
    (branchIf c a s).icount = s.icount + 1 := by cases c <;> rfl
@[simp] theorem branchIf_pcr (c : Bool) (a : CodeAddr) (s : State) :
    (branchIf c a s).pcr = if c then a else (nextAddress s).1 := by cases c <;> rfl

/-- The address after an instruction depends on the program counter and the loop alone. -/
theorem nextAddress_congr {s s' : State} (hp : s'.pcr = s.pcr) (hl : s'.loop = s.loop) :
    nextAddress s' = nextAddress s := by
  simp [nextAddress, hp, hl]

/-! ## Index registers -/

@[simp] theorem getIdx_setIdx_same (k : XReg) (v : Index) (s : State) : getIdx k (setIdx k v s) = v := by
  cases k <;> rfl

theorem getIdx_setIdx_ne {j k : XReg} (h : j ≠ k) (v : Index) (s : State) :
    getIdx j (setIdx k v s) = getIdx j s := by
  cases j <;> cases k <;> first | rfl | exact absurd rfl h

@[simp] theorem getIdx_updateIdx_same (k : XReg) (u : Upd) (s : State) :
    getIdx k (updateIdx k u s) = { getIdx k s with ptr := updPtr u (getIdx k s) } := by
  simp [updateIdx]

theorem getIdx_updateIdx_ne {j k : XReg} (h : j ≠ k) (u : Upd) (s : State) :
    getIdx j (updateIdx k u s) = getIdx j s := by
  simp [updateIdx, getIdx_setIdx_ne h]

theorem setIdx_getIdx (k : XReg) (s : State) : setIdx k (getIdx k s) s = s := by
  cases k <;> rfl

/-- The operand's update leaves every index register but its own, and of its own all but the pointer. -/
theorem getIdx_update (t : Operand) (k : XReg) (s : State) :
    getIdx k (update t s) =
      match t with
      | .indexed j u _ => if j = k then { getIdx k s with ptr := updPtr u (getIdx k s) } else getIdx k s
      | _ => getIdx k s := by
  cases t with
  | romDirect a => rfl
  | ramDirect a b => rfl
  | indexed j u b =>
    by_cases h : j = k
    · subst h; simp [update]
    · simp [update, h, getIdx_updateIdx_ne (Ne.symm h)]

/-- An operand that does not update index `k` leaves it alone. -/
theorem getIdx_update_of_not {t : Operand} {k : XReg} (h : updatesIndex t k = false) (s : State) :
    getIdx k (update t s) = getIdx k s := by
  rw [getIdx_update]
  cases t with
  | romDirect a => rfl
  | ramDirect a b => rfl
  | indexed j u b =>
    by_cases hk : j = k
    · have hu : u = .none := by simpa [updatesIndex, hk] using h
      subst hu; simp [hk, updPtr]
    · simp [hk]

theorem update_inc (t : Operand) (k : XReg) (s : State) : (getIdx k (update t s)).inc = (getIdx k s).inc := by
  rw [getIdx_update]; cases t <;> simp only
  split <;> rfl

theorem update_bas (t : Operand) (k : XReg) (s : State) : (getIdx k (update t s)).bas = (getIdx k s).bas := by
  rw [getIdx_update]; cases t <;> simp only
  split <;> rfl

theorem update_lim (t : Operand) (k : XReg) (s : State) : (getIdx k (update t s)).lim = (getIdx k s).lim := by
  rw [getIdx_update]; cases t <;> simp only
  split <;> rfl

/-! ## Operand access -/

/-- A RAM form is located in RAM (30_encoding.md R106). -/
theorem locate_of_ramForm {t : Operand} (h : t.ramForm = true) (s : State) : ∃ a, locate t s = .ram a := by
  cases t with
  | romDirect a => exact absurd h (by simp [Operand.ramForm])
  | ramDirect a b => exact ⟨_, rfl⟩
  | indexed k u b => cases k <;> first | exact ⟨_, rfl⟩ | exact absurd h (by simp [Operand.ramForm])

/-- An operand that may be stored to may be read. -/
theorem readable_of_storable {t : Operand} {s : State} (h : storable t s = true) : readable t s = true := by
  simp only [storable, Bool.and_eq_true] at h
  simp [readable, legal_of_ramForm h.1, h.2]

/-- An operand that may be stored to is located in RAM. -/
theorem locate_of_storable {t : Operand} {s : State} (h : storable t s = true) : ∃ a, locate t s = .ram a :=
  locate_of_ramForm (by simp only [storable, Bool.and_eq_true] at h; exact h.1) s

/-- An indexed operand has no address field. -/
@[simp] theorem readable_indexed (k : XReg) (u : Upd) (b : Bool) (s : State) :
    readable (.indexed k u b) s = (Operand.indexed k u b).legal := by simp [readable, Operand.fits]
@[simp] theorem storable_indexed (k : XReg) (u : Upd) (b : Bool) (s : State) :
    storable (.indexed k u b) s = (Operand.indexed k u b).ramForm := by simp [storable, Operand.fits]

/-- What an operand may be depends on the parameters alone. -/
theorem storable_congr {s s' : State} (h : s'.cfg = s.cfg) (t : Operand) : storable t s' = storable t s := by
  simp [storable, h]

/-- `Load` answers exactly when the form is legal and the location has a value. -/
theorem load_ok_iff {t : Operand} {s s' : State} {v : Cplx} :
    load t s = .ok (v, s') ↔ readable t s = true ∧ readLoc (locate t s) s = some v ∧ s' = update t s := by
  unfold load
  by_cases h : readable t s = true
  · cases hr : readLoc (locate t s) s <;> simp [h, @eq_comm _ s']
  · simp [h]

theorem load_of_reads {t : Operand} {s : State} {v : Cplx} (h : readable t s = true)
    (hv : readLoc (locate t s) s = some v) : load t s = .ok (v, update t s) :=
  load_ok_iff.2 ⟨h, hv, rfl⟩

/-- `Store` answers exactly on the RAM forms. -/
theorem store_ok_iff {t : Operand} {c : Cplx} {s s' : State} :
    store t c s = .ok s' ↔ ∃ a, storable t s = true ∧ locate t s = .ram a ∧ s' = update t (ramWrite a c s) := by
  unfold store
  by_cases h : storable t s = true
  · obtain ⟨a, ha⟩ := locate_of_storable h
    simp [h, ha, @eq_comm _ s']
  · simp [h]

theorem loadAddr_ok_iff {t : Operand} {s s' : State} {a : CodeAddr} :
    loadAddr t s = .ok (a, s') ↔
      ∃ v, storable t s = true ∧ readLoc (locate t s) s = some v ∧ a = truncRe 14 v ∧ s' = update t s := by
  unfold loadAddr
  by_cases h : storable t s = true
  · have hl := readable_of_storable h
    cases hr : readLoc (locate t s) s <;> simp [h, hl, load, hr, @eq_comm _ s', @eq_comm _ a]
  · simp [h]

/-! ## The shapes -/

theorem onLoad_next_iff {t : Operand} {s s' : State} {k : Cplx → State → Out} :
    onLoad t s k = .next s' ↔
      ∃ v, readable t s = true ∧ readLoc (locate t s) s = some v ∧ k v (update t s) = .next s' := by
  unfold onLoad
  cases h : load t s with
  | error f =>
    simp only [reduceCtorEq, false_iff, not_exists, not_and]
    intro v hl hv
    rw [load_of_reads hl hv] at h
    cases h
  | ok p =>
    obtain ⟨v, s1⟩ := p
    obtain ⟨hl, hv, rfl⟩ := load_ok_iff.1 h
    simp [hl, hv]

theorem onLoad_of_reads {t : Operand} {s : State} {v : Cplx} (h : readable t s = true)
    (hv : readLoc (locate t s) s = some v) (k : Cplx → State → Out) : onLoad t s k = k v (update t s) := by
  simp [onLoad, load_of_reads h hv]

theorem onLoadAddr_next_iff {t : Operand} {s s' : State} {k : CodeAddr → State → Out} :
    onLoadAddr t s k = .next s' ↔
      ∃ v, storable t s = true ∧ readLoc (locate t s) s = some v ∧ k (truncRe 14 v) (update t s) = .next s' := by
  unfold onLoadAddr
  cases h : loadAddr t s with
  | error f =>
    simp only [reduceCtorEq, false_iff, not_exists, not_and]
    intro v hl hv
    rw [loadAddr_ok_iff.2 ⟨v, hl, hv, rfl, rfl⟩] at h
    cases h
  | ok p =>
    obtain ⟨a, s1⟩ := p
    obtain ⟨v, hl, hv, rfl, rfl⟩ := loadAddr_ok_iff.1 h
    simp [hl, hv]

theorem onLoadAddr_of_reads {t : Operand} {s : State} {v : Cplx} (h : storable t s = true)
    (hv : readLoc (locate t s) s = some v) (k : CodeAddr → State → Out) :
    onLoadAddr t s k = k (truncRe 14 v) (update t s) := by
  simp [onLoadAddr, loadAddr_ok_iff.2 ⟨v, h, hv, rfl, rfl⟩]

theorem storeAndComplete_next_iff {t : Operand} {c : Cplx} {s s' : State} :
    storeAndComplete t c s = .next s' ↔
      ∃ a, storable t s = true ∧ locate t s = .ram a ∧ s' = complete (update t (ramWrite a c s)) := by
  unfold storeAndComplete
  cases h : store t c s with
  | error f =>
    simp only [reduceCtorEq, false_iff, not_exists, not_and]
    intro a hf ha
    rw [store_ok_iff.2 ⟨a, hf, ha, rfl⟩] at h
    cases h
  | ok s1 =>
    obtain ⟨a, hf, ha, rfl⟩ := store_ok_iff.1 h
    simp [hf, ha, @eq_comm _ s']

theorem storeAndComplete_of_ram {t : Operand} {s : State} {a : RamAddr} (h : storable t s = true)
    (ha : locate t s = .ram a) (c : Cplx) :
    storeAndComplete t c s = .next (complete (update t (ramWrite a c s))) :=
  storeAndComplete_next_iff.2 ⟨a, h, ha, rfl⟩

theorem loadAndComplete_next_iff {t : Operand} {f : Cplx → State → State} {s s' : State} :
    loadAndComplete t s f = .next s' ↔
      ∃ v, readable t s = true ∧ readLoc (locate t s) s = some v ∧ s' = complete (f v (update t s)) := by
  unfold loadAndComplete
  rw [onLoad_next_iff]
  simp [@eq_comm _ s']

/-- A write of a register goes on exactly when nothing forbids it. -/
theorem onWrite_next_iff {i : Reg} {c : Cplx} {t : Option Operand} {s s' : State} {k : State → Out} :
    onWrite i c t s k = .next s' ↔ writeFault i t s = none ∧ k (writeReg i c t s) = .next s' := by
  unfold onWrite
  cases h : writeFault i t s <;> simp

theorem onWrite_of_ok {i : Reg} {t : Option Operand} {s : State} (h : writeFault i t s = none) (c : Cplx)
    (k : State → Out) : onWrite i c t s k = k (writeReg i c t s) := by
  simp [onWrite, h]

/-! What an operand's update leaves alone, as the meanings read it afterwards. -/

@[simp] theorem macOut_update (t : Operand) (s : State) : macOut (update t s) = macOut s := by
  simp [macOut, suggestedOut, otherOut, sumOut, difOut, satOut, macProduct, mulReady, macIn]

@[simp] theorem readReg_update (i : Reg) (t : Operand) (s : State) : readReg i (update t s) = readReg i s := by
  cases i <;> simp [readReg]

@[simp] theorem writeFault_update (i : Reg) (t : Option Operand) (u : Operand) (s : State) :
    writeFault i t (update u s) = writeFault i t s := by
  simp [writeFault, alsoWrites]

@[simp] theorem satOn_update (t : Operand) (s : State) : satOn (update t s) = satOn s := by simp [satOn]

@[simp] theorem nextAddress_update (t : Operand) (s : State) : nextAddress (update t s) = nextAddress s :=
  nextAddress_congr (by simp) (by simp)

@[simp] theorem nextAddress_writeReg (i : Reg) (c : Cplx) (t : Option Operand) (s : State) :
    nextAddress (writeReg i c t s) = nextAddress s := nextAddress_congr (by simp) (by simp)

@[simp] theorem nextAddress_andCmpf (c : Bool) (s : State) :
    nextAddress (andCmpf c s) = nextAddress s := nextAddress_congr (by simp) (by simp)
@[simp] theorem nextAddress_setRsr (a : CodeAddr) (s : State) :
    nextAddress (setRsr a s) = nextAddress s := nextAddress_congr (by simp) (by simp)
@[simp] theorem nextAddress_setBar (a : RamAddr) (s : State) :
    nextAddress (setBar a s) = nextAddress s := nextAddress_congr (by simp) (by simp)
@[simp] theorem nextAddress_setDsr (w : W32) (s : State) :
    nextAddress (setDsr w s) = nextAddress s := nextAddress_congr (by simp) (by simp)
@[simp] theorem nextAddress_emptyWbb (s : State) :
    nextAddress (emptyWbb s) = nextAddress s := nextAddress_congr (by simp) (by simp)
@[simp] theorem nextAddress_ctlOut (w : Nat) (s : State) :
    nextAddress (ctlOut w s) = nextAddress s := nextAddress_congr (by simp) (by simp)
@[simp] theorem nextAddress_setRun (r : Run) (s : State) :
    nextAddress (setRun r s) = nextAddress s := nextAddress_congr (by simp) (by simp)
@[simp] theorem nextAddress_emit (e : Event) (s : State) :
    nextAddress (emit e s) = nextAddress s := nextAddress_congr (by simp) (by simp)
@[simp] theorem nextAddress_portOut (p : Port) (w : W32) (s : State) :
    nextAddress (portOut p w s) = nextAddress s := nextAddress_congr (by simp) (by simp)
@[simp] theorem nextAddress_setIdx (k : XReg) (v : Index) (s : State) :
    nextAddress (setIdx k v s) = nextAddress s := nextAddress_congr (by simp) (by simp)
@[simp] theorem nextAddress_ramWrite (a : RamAddr) (c : Cplx) (s : State) :
    nextAddress (ramWrite a c s) = nextAddress s := nextAddress_congr (by simp) (by simp)
@[simp] theorem nextAddress_writePsr (w : W32) (s : State) :
    nextAddress (writePsr w s) = nextAddress s := nextAddress_congr (by simp) (by simp)

@[simp] theorem nextAddress_setAluFlags (a b : Bool) (s : State) :
    nextAddress (setAluFlags a b s) = nextAddress s := rfl

/-! The shapes of the register-computing instructions. -/

theorem combineMem_next_iff {f : Cplx → Cplx → Cplx} {i : Reg} {t : Operand} {s s' : State} :
    combineMem f i t s = .next s' ↔
      ∃ v, readable t s = true ∧ readLoc (locate t s) s = some v ∧ writeFault i (some t) s = none ∧
        s' = complete (writeReg i (f (readReg i s) v) (some t) (update t s)) := by
  unfold combineMem
  rw [onLoad_next_iff]
  simp [onWrite_next_iff, @eq_comm _ s']

theorem mapMem_next_iff {f : Cplx → Cplx} {i : Reg} {t : Operand} {s s' : State} :
    mapMem f i t s = .next s' ↔
      ∃ v, readable t s = true ∧ readLoc (locate t s) s = some v ∧ writeFault i (some t) s = none ∧
        s' = complete (writeReg i (f v) (some t) (update t s)) := by
  unfold mapMem
  rw [onLoad_next_iff]
  simp [onWrite_next_iff, @eq_comm _ s']

theorem mapReg_next_iff {f : Cplx → Cplx} {rd rs : Reg} {s s' : State} :
    mapReg f rd rs s = .next s' ↔
      writeFault rd none s = none ∧ s' = complete (writeReg rd (f (readReg rs s)) none s) := by
  unfold mapReg
  rw [onWrite_next_iff]
  simp [@eq_comm _ s']

theorem writeAlu_next_iff {rd : Reg} {p : AluPair} {t : Option Operand} {s s' : State} :
    writeAlu rd p t s = .next s' ↔
      writeFault rd t s = none ∧
        s' = complete (setAluFlags p.re.ovf p.im.ovf (writeReg rd p.value t s)) := by
  unfold writeAlu
  rw [onWrite_next_iff]
  simp [@eq_comm _ s']

theorem testMem_next_iff {f : Cplx → Cplx → Bool} {i : Reg} {t : Operand} {s s' : State} :
    testMem f i t s = .next s' ↔
      ∃ v, readable t s = true ∧ readLoc (locate t s) s = some v ∧
        s' = advance (andCmpf (f (readReg i s) v) (update t s)) := by
  unfold testMem
  rw [onLoad_next_iff]
  simp [@eq_comm _ s']

theorem loadIndex_next_iff {k : XReg} {t : Operand} {f : Index13 → Index → Index} {s s' : State} :
    loadIndex k t f s = .next s' ↔
      ∃ v, readable t s = true ∧ updatesIndex t k = false ∧ readLoc (locate t s) s = some v ∧
        s' = complete (setIdx k (f (truncRe 13 v) (getIdx k s)) (update t s)) := by
  unfold loadIndex
  cases hu : updatesIndex t k
  · simp [loadAndComplete_next_iff, getIdx_update_of_not hu]
  · cases hl : t.legal <;> simp [loadAndComplete_next_iff, readable, hl]

theorem recvWord_next_iff {p : Port} {t : Operand} {s s' : State} :
    recvWord p t s = .next s' ↔
      storable t s = true ∧
        ((inReady p s = true ∧ ∃ a, locate t s = .ram a ∧
            s' = complete (update t (ramWrite a ⟨portIn p s, 0⟩
              (setRun .running (emit (.inp p (portIn p s)) s))))) ∨
          (inReady p s = false ∧ s' = setRun (.waiting (.recv p t)) s)) := by
  unfold recvWord
  by_cases h : storable t s = true
  · cases hr : inReady p s
    · simp [h, @eq_comm _ s']
    · have hloc : locate t (setRun .running (emit (.inp p (portIn p s)) s)) = locate t s := rfl
      have hst : storable t (setRun .running (emit (.inp p (portIn p s)) s)) = storable t s := rfl
      simp [h, storeAndComplete_next_iff, hloc, hst]
  · simp [h]

/-- A sent word: out and complete, or waiting (45_bar_ports_control.md R243). -/
theorem sendWord_cases (p : Port) (w : W32) (s : State) :
    (outReady p s = true ∧ sendWord p w s = complete (setRun .running (portOut p w s))) ∨
      (outReady p s = false ∧ sendWord p w s = setRun (.waiting (.send p w)) s) := by
  unfold sendWord
  cases outReady p s <;> simp

/-- One sample of the condition: complete, or waiting on (R247). -/
theorem pollCond_cases (v : W32) (s : State) :
    (Config.waiCond s.cfg.kWidth (kinWord s) v = true ∧
        pollCond v s = complete (setRun .running (emit (.kin (kinWord s)) s))) ∨
      (Config.waiCond s.cfg.kWidth (kinWord s) v = false ∧
        pollCond v s = setRun (.waiting (.cond v)) (emit (.kin (kinWord s)) s)) := by
  unfold pollCond
  cases Config.waiCond s.cfg.kWidth (kinWord s) v <;> simp

theorem execNop_next_iff {t : Option Operand} {s s' : State} :
    execNop t s = .next s' ↔
      (t = none ∧ s' = complete s) ∨ ∃ u, t = some u ∧ nopLegal (some u) = true ∧
          s' = complete (update u s) := by
  cases t with
  | none => simp [execNop, @eq_comm _ s']
  | some u => cases h : nopLegal (some u) <;> simp [execNop, h, @eq_comm _ s']

/-- `rpt` answers exactly where nothing refuses it (44_test_branch.md R225, R231). -/
theorem execRpt_next_iff {i : Reg} {t : Operand} {s s' : State} :
    execRpt i t s = .next s' ↔
      ∃ v, storable t s = true ∧ readLoc (locate t s) s = some v ∧
        rptFault i (truncRe 14 v) (update t s) = none ∧
        s' = complete (setLoop (rptLoop i (truncRe 14 v) (update t s)) (forgetReg i (update t s))) := by
  unfold execRpt
  rw [onLoadAddr_next_iff]
  refine exists_congr fun v => and_congr_right fun _ => and_congr_right fun _ => ?_
  cases h : rptFault i (truncRe 14 v) (update t s) <;> simp [@eq_comm _ s']

end Sys2Proof.Machine
end

