-- ==== Sys2Proof/Laws/PerInstr.lean ====
section
/-!
SUPPORT. The family of statements made per instruction: the opcode field of an instruction's word is its
row number in Table 1 (30_encoding.md R104, R111).
-/

namespace Sys2Proof.Laws.OpcodeRow

/-- Bits 31..26 of the word are the position of the constructor, which is the row of Table 1. -/
def Statement (i : Instr) : Prop := ((encode i).extractLsb' 26 6).toNat = i.ctorIdx

theorem of_fields {i : Instr} (h : (encodeFields i).op.toNat = i.ctorIdx) : Statement i := by
  have ho : (Fields.ofWord (encode i)).op = (encodeFields i).op := by rw [encode, Fields.ofWord_toWord]
  exact (congrArg BitVec.toNat ho).trans h

theorem nop (t : Option Operand) : Statement (.nop t) := of_fields (by cases t <;> rfl)
theorem and (r : Reg) (t : Operand) : Statement (.and r t) := of_fields rfl
theorem ior (r : Reg) (t : Operand) : Statement (.ior r t) := of_fields rfl
theorem xor (r : Reg) (t : Operand) : Statement (.xor r t) := of_fields rfl
theorem add (r : Reg) (t : Operand) : Statement (.add r t) := of_fields rfl
theorem sub (r : Reg) (t : Operand) : Statement (.sub r t) := of_fields rfl
theorem sbx (r : Reg) (t : Operand) : Statement (.sbx r t) := of_fields rfl
theorem ldsDsr (t : Operand) : Statement (.ldsDsr t) := of_fields rfl
theorem slaDynR (rd rs : Reg) : Statement (.slaDynR rd rs) := of_fields rfl
theorem slaDynT (rd : Reg) (t : Operand) : Statement (.slaDynT rd t) := of_fields rfl
theorem sllR (n : Count) (rd rs : Reg) : Statement (.sllR n rd rs) := of_fields rfl
theorem sllT (n : Count) (rd : Reg) (t : Operand) : Statement (.sllT n rd t) := of_fields rfl
theorem srlR (n : Count) (rd rs : Reg) : Statement (.srlR n rd rs) := of_fields rfl
theorem srlT (n : Count) (rd : Reg) (t : Operand) : Statement (.srlT n rd t) := of_fields rfl
theorem sraR (n : Count) (rd rs : Reg) : Statement (.sraR n rd rs) := of_fields rfl
theorem sraT (n : Count) (rd : Reg) (t : Operand) : Statement (.sraT n rd t) := of_fields rfl
theorem sirR (rd rs : Reg) : Statement (.sirR rd rs) := of_fields rfl
theorem sirT (rd : Reg) (t : Operand) : Statement (.sirT rd t) := of_fields rfl
theorem lda (r : Reg) (t : Operand) : Statement (.lda r t) := of_fields rfl
theorem sta (r : Reg) (t : Operand) : Statement (.sta r t) := of_fields rfl
theorem ldsPsr (t : Operand) : Statement (.ldsPsr t) := of_fields rfl
theorem stsPsr (t : Operand) : Statement (.stsPsr t) := of_fields rfl
theorem teq (r : Reg) (t : Operand) : Statement (.teq r t) := of_fields rfl
theorem tne (r : Reg) (t : Operand) : Statement (.tne r t) := of_fields rfl
theorem tgr (r : Reg) (t : Operand) : Statement (.tgr r t) := of_fields rfl
theorem tge (r : Reg) (t : Operand) : Statement (.tge r t) := of_fields rfl
theorem tsm (r : Reg) (t : Operand) : Statement (.tsm r t) := of_fields rfl
theorem tse (r : Reg) (t : Operand) : Statement (.tse r t) := of_fields rfl
theorem tbw (r : Reg) (t : Operand) : Statement (.tbw r t) := of_fields rfl
theorem brt (j : CodeAddr) : Statement (.brt j) := of_fields rfl
theorem brf (j : CodeAddr) : Statement (.brf j) := of_fields rfl
theorem bra (j : CodeAddr) : Statement (.bra j) := of_fields rfl
theorem bri (t : Operand) : Statement (.bri t) := of_fields rfl
theorem cyc (r : Reg) (t : Operand) : Statement (.cyc r t) := of_fields rfl
theorem rpt (r : Reg) (t : Operand) : Statement (.rpt r t) := of_fields rfl
theorem jsr (j : CodeAddr) : Statement (.jsr j) := of_fields rfl
theorem stsRsr (t : Operand) : Statement (.stsRsr t) := of_fields rfl
theorem ldsBar (t : Operand) : Statement (.ldsBar t) := of_fields rfl
theorem stsBar (t : Operand) : Statement (.stsBar t) := of_fields rfl
theorem addBar (t : Operand) : Statement (.addBar t) := of_fields rfl
theorem ldsCom (port : Port) (t : Operand) : Statement (.ldsCom port t) := of_fields rfl
theorem stsCom (port : Port) (t : Operand) : Statement (.stsCom port t) := of_fields rfl
theorem ctl (t : Operand) : Statement (.ctl t) := of_fields rfl
theorem brk : Statement (.brk) := of_fields rfl
theorem wai (t : Operand) : Statement (.wai t) := of_fields rfl
theorem xfrPtr (x : XReg) (r : Reg) : Statement (.xfrPtr x r) := of_fields rfl
theorem ldxPtr (x : XReg) (t : Operand) : Statement (.ldxPtr x t) := of_fields rfl
theorem stxPtr (x : XReg) (t : Operand) : Statement (.stxPtr x t) := of_fields rfl
theorem ldxInc (x : XReg) (t : Operand) : Statement (.ldxInc x t) := of_fields rfl
theorem ldxBas (x : XReg) (t : Operand) : Statement (.ldxBas x t) := of_fields rfl
theorem ldxLim (x : XReg) (t : Operand) : Statement (.ldxLim x t) := of_fields rfl
theorem flsWbb : Statement (.flsWbb) := of_fields rfl

end Sys2Proof.Laws.OpcodeRow
end

