-- ==== Sys2Proof/Laws/Regs.lean ====
section
/-!
SUPPORT. What a write of a complex register, `MacClear` and a write of psr do to the fields they touch. The
provers cite these instead of unfolding `writeReg`, `writeR7`, `forgetReg` and `writePsr`.
-/

namespace Sys2Proof.Machine

/-! ## What is specified in the Butterfly/MAC unit (R271) -/

theorem MacReg.known_eq_some_iff {r : MacReg} {v : Cplx} : r.known = some v ↔ r = ⟨v, true⟩ := by
  obtain ⟨x, b⟩ := r
  cases b <;> simp [MacReg.known]
theorem MacReg.known_eq_none_iff {r : MacReg} : r.known = none ↔ r.specified = false := by
  simp [MacReg.known]
@[simp] theorem MacReg.take_some (v free : Cplx) : MacReg.take (some v) free = ⟨v, true⟩ := rfl
@[simp] theorem MacReg.take_none (free : Cplx) : MacReg.take none free = ⟨free, false⟩ := rfl

/-- When the suggested product is specified: R334 is met, and both factors are specified (R271). -/
theorem macProduct_eq_some_iff {s : State} {p : Cplx} :
    macProduct s = some p ↔ mulReady s = true ∧ ∃ m w, s.mac.r7in = ⟨w, true⟩ ∧
      (if fMuxL s.psr then s.mac.lreg else s.mac.r6in) = ⟨m, true⟩ ∧ mulProduct s.psr m w = p := by
  unfold macProduct
  split
  · rename_i h
    simp only [h, true_and, Option.bind_eq_bind, Option.bind_eq_some_iff, MacReg.known_eq_some_iff, Option.some.injEq]
    constructor
    · rintro ⟨m, hm, w, hw, rfl⟩
      exact ⟨m, w, hw, hm, rfl⟩
    · rintro ⟨m, w, hw, hm, rfl⟩
      exact ⟨m, hm, w, hw, rfl⟩
  · rename_i h
    simp [h]

/-- An adder's output is specified only from two specified inputs and with an option that is not 3. -/
theorem adder_isSome (p : Config.Params) (psr : W32) (op : BitVec 2) (x y : Option Cplx) :
    (adder p psr op x y).isSome = (x.isSome && y.isSome && decide (op ≠ 3)) := by
  have h (a b : W32) : (adderOp op a b).isSome = decide (op ≠ 3) := by
    have key : ∀ op : BitVec 2, op = 0 ∨ op = 1 ∨ op = 2 ∨ op = 3 := by decide
    rcases key op with rfl | rfl | rfl | rfl <;> rfl
  rcases x with _ | x
  · rfl
  rcases y with _ | y
  · rfl
  have hre := h x.re y.re
  have him := h x.im y.im
  unfold adder
  cases hr : adderOp op x.re y.re <;> cases hi : adderOp op x.im y.im <;> simp_all

/-! ## The parts of a write of r7 -/

@[simp] theorem writeR7_mac (c : Cplx) (t : Option Operand) (s : State) :
    (writeR7 c t s).mac = nextMac c t s := by
  unfold writeR7; dsimp only; split <;> simp
@[simp] theorem writeR7_psr (c : Cplx) (t : Option Operand) (s : State) :
    (writeR7 c t s).psr = accumulate (macOut s) s.psr := by
  unfold writeR7; dsimp only; split <;> simp
@[simp] theorem writeR7_flagsWritten (c : Cplx) (t : Option Operand) (s : State) :
    (writeR7 c t s).flagsWritten = accumulate (macOut s) s.flagsWritten := by
  unfold writeR7; dsimp only; split <;> simp
@[simp] theorem writeR7_mulw (c : Cplx) (t : Option Operand) (s : State) :
    (writeR7 c t s).mulw = some s.icount := by
  unfold writeR7; dsimp only; split <;> simp

/-- The index registers after a write of r7: x0 steps with the automatic load of r6 (R278). -/
theorem writeR7_idx (c : Cplx) (t : Option Operand) (s : State) :
    (writeR7 c t s).idx =
      if fR7act s.psr = 2 ∧ isIndexedOperand t = true then (updateIdx .x0 .inc s).idx else s.idx := by
  unfold writeR7; dsimp only
  split <;> rfl

/-- The condition that feeds bit `n` of psr at a write of r7, for the four flags that accumulate (R284). -/
def accCond (o : MacOut) (n : Nat) : Option Bool :=
  if n = 24 then bigOut Cplx.re o else if n = 25 then bigOut Cplx.im o
  else if n = 28 then o.satIm else if n = 29 then o.satRe else some false

/-- Bit by bit, the accumulating flags whose condition is as `f` asks. -/
theorem getLsbD_accFlags (f : Option Bool → Bool) (hf : f (some false) = false) (o : MacOut) (n : Nat) :
    (accFlags f o).getLsbD n = f (accCond o n) := by
  have hbit (k : Nat) (hk : k < 32) (b : Bool) (n : Nat) :
      (if b then (1#32 <<< k) else 0#32).getLsbD n = (decide (n = k) && b) := by
    cases b
    · simp
    · simp only [if_true, BitVec.getLsbD_shiftLeft, BitVec.getLsbD_one, Bool.and_true]
      by_cases h : n = k
      · subst h; simp [hk]
      · by_cases h2 : n < k
        · simp [h, h2]
        · have : n - k ≠ 0 := by omega
          simp [h, this]
  show (BitVec.getLsbD ((if f (bigOut Cplx.re o) then (1#32 <<< 24) else 0#32) |||
    (if f (bigOut Cplx.im o) then (1#32 <<< 25) else 0#32) |||
    (if f o.satIm then (1#32 <<< 28) else 0#32) ||| (if f o.satRe then (1#32 <<< 29) else 0#32)) n) = _
  simp only [BitVec.getLsbD_or]
  rw [hbit 24 (by omega), hbit 25 (by omega), hbit 28 (by omega), hbit 29 (by omega), accCond]
  by_cases h24 : n = 24
  · subst h24; simp
  by_cases h25 : n = 25
  · subst h25; simp
  by_cases h28 : n = 28
  · subst h28; simp
  by_cases h29 : n = 29
  · subst h29; simp
  · simp [h24, h25, h28, h29, hf]

/-- Bit by bit, what accumulates into psr, and into the record of the flags that are written: a specified
condition is ORed in, an unspecified one clears the bit (10_state.md R35, 70_reset_and_hazards.md R334). -/
theorem getLsbD_accumulate (o : MacOut) (w : W32) (n : Nat) :
    (accumulate o w).getLsbD n = (accCond o n).elim false (w.getLsbD n || ·) := by
  have hs := getLsbD_accFlags (fun c => c == some true) rfl o n
  have ho := getLsbD_accFlags Option.isNone rfl o n
  have hn : 32 ≤ n → accCond o n = some false ∧ w.getLsbD n = false := fun h =>
    ⟨by rw [accCond, if_neg (by omega), if_neg (by omega), if_neg (by omega), if_neg (by omega)],
      BitVec.getLsbD_of_ge w n h⟩
  simp only [accumulate, flagsOpen, flagsSet, BitVec.getLsbD_or, BitVec.getLsbD_and, BitVec.getLsbD_not, hs, ho]
  by_cases h : n < 32
  · rcases accCond o n with _ | _ | _ <;> simp [h]
  · obtain ⟨h1, h2⟩ := hn (by omega)
    simp [h1, h2]

/-- A bit that is no accumulating flag stays. -/
theorem getLsbD_accumulate_of_ne (o : MacOut) (w : W32) {n : Nat} (h24 : n ≠ 24) (h25 : n ≠ 25) (h28 : n ≠ 28)
    (h29 : n ≠ 29) : (accumulate o w).getLsbD n = w.getLsbD n := by
  simp [getLsbD_accumulate, accCond, h24, h25, h28, h29]

/-! ## r0 to r3 -/

theorem writeReg_gpr_of_dest {i : Reg} (h : i = .r4 ∨ i = .r5 ∨ i = .r6 ∨ i = .r7) (c : Cplx) (t :
    Option Operand)
    (s : State) : (writeReg i c t s).gpr = s.gpr := by
  rcases h with rfl | rfl | rfl | rfl <;> first | rfl | simp [writeReg]

/-- Another general register reads as before. -/
theorem readReg_writeReg_gpr {i j : Reg} (hj : j = .r0 ∨ j = .r1 ∨ j = .r2 ∨ j = .r3) (h : i ≠ j) (c : Cplx)
    (t : Option Operand) (s : State) : readReg j (writeReg i c t s) = readReg j s := by
  rcases hj with rfl | rfl | rfl | rfl <;> cases i <;>
    first | rfl | exact absurd rfl h | simp [readReg, writeReg]

theorem readReg_forgetReg_gpr {i j : Reg} (hj : j = .r0 ∨ j = .r1 ∨ j = .r2 ∨ j = .r3) (h : i ≠ j) (s : State) :
    readReg j (forgetReg i s) = readReg j s := by
  rcases hj with rfl | rfl | rfl | rfl <;> cases i <;> first | rfl | exact absurd rfl h

/-- A read of a general register depends on the general registers alone. -/
theorem readReg_gpr_congr {j : Reg} (hj : j = .r0 ∨ j = .r1 ∨ j = .r2 ∨ j = .r3) {s s' : State}
    (h : s'.gpr = s.gpr) : readReg j s' = readReg j s := by
  rcases hj with rfl | rfl | rfl | rfl <;> simp [readReg, h]

/-! ## The Butterfly/MAC registers -/

/-- A write of r0 to r3 leaves the unit and R334's record alone. -/
theorem writeReg_mac_of_gpr {i : Reg} (h4 : i ≠ .r4) (h5 : i ≠ .r5) (h6 : i ≠ .r6) (h7 : i ≠ .r7) (c : Cplx)
    (t : Option Operand) (s : State) :
    (writeReg i c t s).mac = s.mac ∧ (writeReg i c t s).mulw = s.mulw := by
  cases i <;> first | exact ⟨rfl, rfl⟩ | contradiction

/-- A write of a register leaves R334's record or sets it to the executing instruction. -/
theorem writeReg_mulw (i : Reg) (c : Cplx) (t : Option Operand) (s : State) :
    (writeReg i c t s).mulw = s.mulw ∨ (writeReg i c t s).mulw = some s.icount := by
  cases i <;> first | exact .inl rfl | exact .inr rfl | exact .inr (writeR7_mulw c t s)

theorem forgetReg_mulw (i : Reg) (s : State) :
    (forgetReg i s).mulw = s.mulw ∨ (forgetReg i s).mulw = some s.icount := by
  cases i <;> first | exact .inl rfl | exact .inr rfl

/-- A write of anything but r7 leaves the internal registers alone (R275 to R277). -/
theorem writeReg_mac_internal {i : Reg} (h7 : i ≠ .r7) (c : Cplx) (t : Option Operand) (s : State) :
    (writeReg i c t s).mac.a = s.mac.a ∧ (writeReg i c t s).mac.b = s.mac.b ∧
        (writeReg i c t s).mac.q = s.mac.q ∧
      (writeReg i c t s).mac.r = s.mac.r ∧ (writeReg i c t s).mac.lreg = s.mac.lreg := by
  cases i <;> first | exact ⟨rfl, rfl, rfl, rfl, rfl⟩ | contradiction

theorem forgetReg_mac_internal (i : Reg) (s : State) :
    (forgetReg i s).mac.a = s.mac.a ∧ (forgetReg i s).mac.b = s.mac.b ∧ (forgetReg i s).mac.q = s.mac.q ∧
      (forgetReg i s).mac.r = s.mac.r ∧ (forgetReg i s).mac.lreg = s.mac.lreg := by
  cases i <;> exact ⟨rfl, rfl, rfl, rfl, rfl⟩

/-- A write of anything but r7 leaves psr and the index registers alone. -/
theorem writeReg_psr_of_ne {i : Reg} (h7 : i ≠ .r7) (c : Cplx) (t : Option Operand) (s : State) :
    (writeReg i c t s).psr = s.psr ∧ (writeReg i c t s).flagsWritten = s.flagsWritten ∧
      (writeReg i c t s).idx = s.idx := by
  cases i <;> first | exact ⟨rfl, rfl, rfl⟩ | contradiction

/-- psr after a write of any register, bit by bit: only the four accumulation flags can change. -/
theorem getLsbD_psr_writeReg (i : Reg) (c : Cplx) (t : Option Operand) (s : State) {n : Nat} (h24 : n ≠ 24)
    (h25 : n ≠ 25) (h28 : n ≠ 28) (h29 : n ≠ 29) : (writeReg i c t s).psr.getLsbD n = s.psr.getLsbD n := by
  cases i <;> first
    | rfl
    | (show (writeR7 c t s).psr.getLsbD n = _
       rw [writeR7_psr, getLsbD_accumulate_of_ne _ _ h24 h25 h28 h29])

theorem getLsbD_flagsWritten_writeReg (i : Reg) (c : Cplx) (t : Option Operand) (s : State) {n : Nat} (h24 : n ≠ 24)
    (h25 : n ≠ 25) (h28 : n ≠ 28) (h29 : n ≠ 29) :
    (writeReg i c t s).flagsWritten.getLsbD n = s.flagsWritten.getLsbD n := by
  cases i <;> first
    | rfl
    | (show (writeR7 c t s).flagsWritten.getLsbD n = _
       rw [writeR7_flagsWritten, getLsbD_accumulate_of_ne _ _ h24 h25 h28 h29])

/-- A flag that is set stays set, or becomes a draw. -/
theorem psr_writeReg_sticky (i : Reg) (c : Cplx) (t : Option Operand) (s : State) {n : Nat}
    (h : s.psr.getLsbD n = true) :
    (writeReg i c t s).psr.getLsbD n = true ∨ (writeReg i c t s).flagsWritten.getLsbD n = false := by
  cases i <;> first
    | exact .inl h
    | (show (writeR7 c t s).psr.getLsbD n = _ ∨ (writeR7 c t s).flagsWritten.getLsbD n = _
       rw [writeR7_psr, writeR7_flagsWritten, getLsbD_accumulate, getLsbD_accumulate, h]
       cases accCond (macOut s) n <;> simp)

/-! ## The index registers -/

/-- A write of a register steps no index register but x0, and of x0 only the pointer. -/
theorem getIdx_writeReg (i : Reg) (c : Cplx) (t : Option Operand) (k : XReg) (s : State) :
    getIdx k (writeReg i c t s) =
      if k = .x0 ∧ i = .r7 ∧ fR7act s.psr = 2 ∧ isIndexedOperand t = true
      then { getIdx .x0 s with ptr := incPtr (getIdx .x0 s) } else getIdx k s := by
  by_cases h7 : i = .r7
  · subst h7
    have hx : (writeReg .r7 c t s).idx = _ := writeR7_idx c t s
    by_cases hc : fR7act s.psr = 2 ∧ isIndexedOperand t = true
    · rw [if_pos hc] at hx
      cases k <;> simp [getIdx, hx, hc, updateIdx, setIdx, updPtr]
    · rw [if_neg hc] at hx
      rw [if_neg (by tauto)]
      cases k <;> simp [getIdx, hx]
  · rw [if_neg (by tauto)]
    cases k <;> simp [getIdx, (writeReg_psr_of_ne h7 c t s).2.2]

theorem getIdx_congr {s s' : State} (h : s'.idx = s.idx) (k : XReg) : getIdx k s' = getIdx k s := by
  cases k <;> simp [getIdx, h]

/-! What reads the index registers unchanged. -/

@[simp] theorem getIdx_setCmpf (k : XReg) (s : State) :
    getIdx k (setCmpf s) = getIdx k s := getIdx_congr (by simp) k
@[simp] theorem getIdx_complete (k : XReg) (s : State) :
    getIdx k (complete s) = getIdx k s := getIdx_congr (by simp) k
@[simp] theorem getIdx_advance (k : XReg) (s : State) :
    getIdx k (advance s) = getIdx k s := getIdx_congr (by simp) k
@[simp] theorem getIdx_branchTo (k : XReg) (a : CodeAddr) (s : State) :
    getIdx k (branchTo a s) = getIdx k s := getIdx_congr (by simp) k
@[simp] theorem getIdx_branchIf (k : XReg) (c : Bool) (a : CodeAddr) (s : State) :
    getIdx k (branchIf c a s) = getIdx k s := getIdx_congr (by simp) k
@[simp] theorem getIdx_setRun (k : XReg) (r : Run) (s : State) :
    getIdx k (setRun r s) = getIdx k s := getIdx_congr (by simp) k
@[simp] theorem getIdx_setLoop (k : XReg) (l : Loop) (s : State) :
    getIdx k (setLoop l s) = getIdx k s := getIdx_congr (by simp) k
@[simp] theorem getIdx_emit (k : XReg) (e : Event) (s : State) :
    getIdx k (emit e s) = getIdx k s := getIdx_congr (by simp) k
@[simp] theorem getIdx_portOut (k : XReg) (p : Port) (w : W32) (s : State) :
    getIdx k (portOut p w s) = getIdx k s := getIdx_congr (by simp) k
@[simp] theorem getIdx_setAluFlags (k : XReg) (a b : Bool) (s : State) :
    getIdx k (setAluFlags a b s) = getIdx k s := getIdx_congr (by simp) k
@[simp] theorem getIdx_ramWrite (k : XReg) (a : RamAddr) (c : Cplx) (s : State) :
    getIdx k (ramWrite a c s) = getIdx k s := getIdx_congr (by simp) k
@[simp] theorem getIdx_writePsr (k : XReg) (w : W32) (s : State) :
    getIdx k (writePsr w s) = getIdx k s := getIdx_congr (by simp) k
@[simp] theorem getIdx_forgetReg (k : XReg) (i : Reg) (s : State) :
    getIdx k (forgetReg i s) = getIdx k s := getIdx_congr (by simp) k
@[simp] theorem getIdx_andCmpf (k : XReg) (c : Bool) (s : State) :
    getIdx k (andCmpf c s) = getIdx k s := getIdx_congr (by simp) k
@[simp] theorem getIdx_setRsr (k : XReg) (a : CodeAddr) (s : State) :
    getIdx k (setRsr a s) = getIdx k s := getIdx_congr (by simp) k
@[simp] theorem getIdx_setBar (k : XReg) (a : RamAddr) (s : State) :
    getIdx k (setBar a s) = getIdx k s := getIdx_congr (by simp) k
@[simp] theorem getIdx_setDsr (k : XReg) (w : W32) (s : State) :
    getIdx k (setDsr w s) = getIdx k s := getIdx_congr (by simp) k
@[simp] theorem getIdx_emptyWbb (k : XReg) (s : State) :
    getIdx k (emptyWbb s) = getIdx k s := getIdx_congr (by simp) k
@[simp] theorem getIdx_ctlOut (k : XReg) (w : Nat) (s : State) :
    getIdx k (ctlOut w s) = getIdx k s := getIdx_congr (by simp) k

/-! ## psr -/

theorem getLsbD_setBit (w : W32) (k n : Nat) (b : Bool) (hk : k < 32) :
    (setBit w k b).getLsbD n = if n = k then b else w.getLsbD n := by
  have hbit : (1#32 <<< k).getLsbD n = decide (n = k) := by
    simp only [BitVec.getLsbD_shiftLeft, BitVec.getLsbD_one]
    by_cases h : n = k
    · subst h; simp [hk]
    · by_cases h2 : n < k
      · simp [h, h2]
      · have : n - k ≠ 0 := by omega
        simp [h, this]
  unfold setBit
  rw [BitVec.getLsbD_or, BitVec.getLsbD_and, BitVec.getLsbD_not, hbit]
  by_cases h : n = k
  · subst h
    cases b <;> simp [hk]
  · by_cases hn : n < 32
    · cases b
      · simp [h, hn]
      · simp only [if_true, hbit, h, decide_false, Bool.not_false, Bool.and_true, hn, decide_true,
          Bool.or_false,
          if_false]
    · cases b <;> simp [h, hbit, BitVec.getLsbD_of_ge w n (by omega)]

/-- `AluFlags` changes b31 and b30 only (41_logic_arith.md R169). -/
theorem getLsbD_psr_setAluFlags (a b : Bool) (s : State) (n : Nat) :
    (setAluFlags a b s).psr.getLsbD n =
      if n = 30 then (satFlags s a b).getLsbD 0 else if n = 31 then (satFlags s a b).getLsbD 1
      else s.psr.getLsbD n := by
  simp only [setAluFlags]
  rw [getLsbD_setBit _ _ _ _ (by omega), getLsbD_setBit _ _ _ _ (by omega)]

/-- Which bits `lds.psr` writes (10_state.md R33). -/
theorem getLsbD_psrControl (n : Nat) : psrControl.getLsbD n = (decide (n < 20) || decide (n = 21)) := by
  by_cases h : n < 32
  · revert n; decide
  · rw [BitVec.getLsbD_of_ge _ _ (by omega)]
    simp; omega

/-- Which bits `MacClear` clears (R285). -/
theorem getLsbD_psr_macClear (s : State) (n : Nat) :
    (macClear s).psr.getLsbD n =
      (s.psr.getLsbD n && !(decide (n = 24) || decide (n = 25) || decide (n = 28) || decide (n = 29))) := by
  have key : ∀ n, n < 32 → (~~~0x33000000#32).getLsbD n =
      !(decide (n = 24) || decide (n = 25) || decide (n = 28) || decide (n = 29)) := by decide
  by_cases h : n < 32
  · simp only [macClear, BitVec.getLsbD_and]
    rw [key n h]
  · rw [BitVec.getLsbD_of_ge _ _ (by omega), BitVec.getLsbD_of_ge s.psr _ (by omega), Bool.false_and]

/-- psr after `lds.psr`, bit by bit (43_load_store_status.md R202). -/
theorem getLsbD_psr_writePsr (w : W32) (s : State) (n : Nat) :
    (writePsr w s).psr.getLsbD n =
      if n < 20 ∨ n = 21 then w.getLsbD n
      else (s.psr.getLsbD n &&
        !(w.getLsbD 20 && (decide (n = 24) || decide (n = 25) || decide (n = 28) || decide (n = 29)))) := by
  have base (s' : State) (h : s'.psr = (s.psr &&& ~~~psrControl) ||| (w &&& psrControl)) :
      s'.psr.getLsbD n = if n < 20 ∨ n = 21 then w.getLsbD n else s.psr.getLsbD n := by
    rw [h, BitVec.getLsbD_or, BitVec.getLsbD_and, BitVec.getLsbD_and, BitVec.getLsbD_not, getLsbD_psrControl]
    by_cases hc : n < 20 ∨ n = 21
    · have : (decide (n < 20) || decide (n = 21)) = true := by simpa using hc
      rw [this, if_pos hc]; simp
    · have : (decide (n < 20) || decide (n = 21)) = false := by simpa using hc
      rw [this, if_neg hc]
      by_cases hn : n < 32
      · simp [hn]
      · simp [BitVec.getLsbD_of_ge s.psr _ (Nat.le_of_not_lt hn), BitVec.getLsbD_of_ge w _ (Nat.le_of_not_lt hn)]
  unfold writePsr
  dsimp only
  cases hw : w.getLsbD 20
  · simp only [Bool.false_eq_true, if_false, Bool.false_and, Bool.not_false, Bool.and_true]
    exact base { s with psr := (s.psr &&& ~~~psrControl) ||| (w &&& psrControl), mulw := some s.icount } rfl
  · simp only [if_true, Bool.true_and]
    rw [getLsbD_psr_macClear,
      base { s with psr := (s.psr &&& ~~~psrControl) ||| (w &&& psrControl), mulw := some s.icount } rfl]
    by_cases hc : n < 20 ∨ n = 21
    · rw [if_pos hc, if_pos hc]
      have : n ≠ 24 ∧ n ≠ 25 ∧ n ≠ 28 ∧ n ≠ 29 := by omega
      simp [this]
    · rw [if_neg hc, if_neg hc]

/-- `lds.psr` with or without the clear action: the unit's registers (R285). -/
theorem writePsr_mac (w : W32) (s : State) :
    (writePsr w s).mac = if w.getLsbD 20 then (macClear s).mac else s.mac := by
  unfold writePsr
  dsimp only
  split <;> rfl

theorem writePsr_flagsWritten (w : W32) (s : State) :
    (writePsr w s).flagsWritten = if w.getLsbD 20 then (macClear s).flagsWritten else s.flagsWritten := by
  unfold writePsr
  split <;> rfl

@[simp] theorem writePsr_mulw (w : W32) (s : State) : (writePsr w s).mulw = some s.icount := by
  unfold writePsr
  dsimp only
  split <;> rfl

end Sys2Proof.Machine
end

