-- ==== Sys2Proof/Machine/Assembler.lean ====
section
/-!
DEFINITION. The assembler's statement, operand and number syntax (30_encoding.md R115 to R120), which
00_scope.md R5 puts in scope. It is no part of the processor: `step` uses nothing of it. Text is a list
of characters. Allocation of addresses and the directives beyond R116 are in no source (log 42).
-/

namespace Sys2Proof.Machine

/-! ## Numbers (R118) -/

def digitOf (c : Char) : Option Nat :=
  if '0' ≤ c ∧ c ≤ '9' then some (c.toNat - '0'.toNat) else none

def hexDigitOf (c : Char) : Option Nat :=
  if 'a' ≤ c ∧ c ≤ 'f' then some (c.toNat - 'a'.toNat + 10)
  else if 'A' ≤ c ∧ c ≤ 'F' then some (c.toNat - 'A'.toNat + 10)
  else digitOf c

/-- The value of a run of digits read in a base, after `acc`. -/
def digitsFrom (digit : Char → Option Nat) (base acc : Nat) : List Char → Option Nat
  | [] => some acc
  | c :: cs =>
    match digit c with
    | some d => digitsFrom digit base (acc * base + d) cs
    | none => none

/-- A non-empty run of digits. -/
def readDigits (digit : Char → Option Nat) (base : Nat) (cs : List Char) : Option Nat :=
  if cs.isEmpty then none else digitsFrom digit base 0 cs

/-- The part before the first `c`, and the part after it if there is one. -/
def splitAtChar (c : Char) : List Char → List Char × Option (List Char)
  | [] => ([], none)
  | d :: ds =>
    if d = c then ([], some ds)
    else (d :: (splitAtChar c ds).1, (splitAtChar c ds).2)

/-- A number as the assembler codes it: an integer or a fixed-point fraction (R118). -/
inductive Num where
  | int (w : W32)
  | fix (w : W32)
deriving DecidableEq, Repr

/-- A decimal integer, 32 bits wide, signed or unsigned. -/
def integerNum (x : Int) : Option Num :=
  if -2 ^ 31 ≤ x ∧ x < 2 ^ 32 then some (.int (BitVec.ofInt 32 x)) else none

/-- The fraction `num / den` times 2^31 in two's complement; its rounding is open (U22; log 42). -/
def fractionNum (num : Int) (den : Nat) : Num :=
  if num * 2 ^ 31 % (den : Int) = 0 then .fix (BitVec.ofInt 32 (num * 2 ^ 31 / (den : Int)))
  else .fix (BitVec.ofInt 32
    (num * 2 ^ 31 / (den : Int) + (if Config.literalRoundsUp (num * 2 ^ 31) den then 1 else 0)))

/-- An unsigned decimal with the sign `sgn`: an integer if its fractional part is zero, a fraction if
its integer part is zero, else an error (R118, R119: `-1.0` is the integer -1). -/
def decimalNum (sgn : Int) (cs : List Char) : Option Num :=
  match splitAtChar '.' cs with
  | (whole, none) => (readDigits digitOf 10 whole).bind fun n => integerNum (sgn * n)
  | (whole, some frac) =>
    match readDigits digitOf 10 whole, readDigits digitOf 10 frac with
    | some n, some 0 => integerNum (sgn * n)
    | some 0, some f => some (fractionNum (sgn * f) (10 ^ frac.length))
    | _, _ => none

/-- One number: hexadecimal numbers are 32-bit unsigned integers. -/
def readNum (cs : List Char) : Option Num :=
  match cs with
  | '0' :: 'x' :: hs =>
    (readDigits hexDigitOf 16 hs).bind fun n => if n < 2 ^ 32 then some (.int (BitVec.ofNat 32 n)) else none
  | '-' :: ds => decimalNum (-1) ds
  | '+' :: ds => decimalNum 1 ds
  | ds => decimalNum 1 ds

/-- A literal: one number with imaginary part 0, or a colon-separated pair without type mixing. -/
def readLiteral (cs : List Char) : Option Cplx :=
  match splitAtChar ':' cs with
  | (a, none) =>
    match readNum a with
    | some (.int w) => some ⟨w, 0⟩
    | some (.fix w) => some ⟨w, 0⟩
    | none => none
  | (a, some b) =>
    match readNum a, readNum b with
    | some (.int x), some (.int y) => some ⟨x, y⟩
    | some (.fix x), some (.fix y) => some ⟨x, y⟩
    | _, _ => none

/-! ## Operands (R117) -/

/-- What a name stands for: a `.cst` with its DataROM address, a `.var` with its RAM address, a label
with its CodeROM address (R116). -/
inductive Sym where
  | cst (a : Index13)
  | var (a : Index13)
  | label (a : CodeAddr)
deriving DecidableEq, Repr

abbrev SymTab := List (List Char × Sym)

def findSym (tab : SymTab) (name : List Char) : Option Sym :=
  (tab.find? fun e => decide (e.1 = name)).map Prod.snd

/-- What an operand's text produces: a memory operand, a register, a jump target, or a constant for
which the assembler allocates a DataROM word and makes it `RomDirect` (R103, R120). -/
inductive Parsed where
  | mem (t : Operand)
  | reg (r : Reg)
  | xreg (x : XReg)
  | port (port : Port)
  | jump (j : CodeAddr)
  | constant (c : Cplx)
deriving DecidableEq, Repr

def xregChar (c : Char) : Option XReg :=
  match c with
  | '0' => some .x0
  | '1' => some .x1
  | '2' => some .x2
  | '3' => some .x3
  | _ => none

def suffixUpd (cs : List Char) : Option Upd :=
  match cs with
  | [] => some .none
  | ['+'] => some .inc
  | ['-'] => some .dec
  | ['*'] => some .rev
  | _ => none

/-- `xk` with a suffix; a form R102 does not have is no operand. -/
def readIndexed (biased : Bool) (cs : List Char) : Option Operand :=
  match cs with
  | 'x' :: k :: suffix =>
    match xregChar k, suffixUpd suffix with
    | some k, some u => if (Operand.indexed k u biased).legal then some (.indexed k u biased) else none
    | _, _ => none
  | _ => none

def regChar (c : Char) : Option Reg :=
  match c with
  | '0' => some .r0
  | '1' => some .r1
  | '2' => some .r2
  | '3' => some .r3
  | '4' => some .r4
  | '5' => some .r5
  | '6' => some .r6
  | '7' => some .r7
  | _ => none

def varOperand (tab : SymTab) (biased : Bool) (name : List Char) : Option Parsed :=
  match findSym tab name with
  | some (.var a) => some (.mem (.ramDirect a biased))
  | _ => none

/-- A name or a literal. -/
def readPlain (tab : SymTab) (cs : List Char) : Option Parsed :=
  match findSym tab cs with
  | some (.cst a) => some (.mem (.romDirect a))
  | some (.var a) => some (.mem (.ramDirect a false))
  | some (.label j) => some (.jump j)
  | none => (readLiteral cs).map Parsed.constant

/-- The operand form a text produces (R117). `@name` is the direct form used indirectly. DESIGN CHOICE
(log 42): R117 does not show the syntax of a biased direct operand used indirectly (presumably
`@bar:name`); `@bar:` stands before an index register only, so `@bar:name` is no operand here. -/
def readOperandText (tab : SymTab) (cs : List Char) : Option Parsed :=
  match cs with
  | '@' :: 'b' :: 'a' :: 'r' :: ':' :: x => (readIndexed true x).map Parsed.mem
  | '@' :: x =>
    match readIndexed false x with
    | some t => some (.mem t)
    | none => varOperand tab false x
  | '&' :: name =>
    match findSym tab name with
    | some (.label a) => some (.constant ⟨a.setWidth 32, 0⟩)
    | some (.var a) => some (.constant ⟨a.setWidth 32, 0⟩)
    | _ => none
  | 'b' :: 'a' :: 'r' :: ':' :: name => varOperand tab true name
  | ['x', k] =>
    match xregChar k with
    | some x => some (.xreg x)
    | none => readPlain tab cs
  | ['p', '0'] => some (.port .p0)
  | ['p', '1'] => some (.port .p1)
  | ['r', k] =>
    match regChar k with
    | some r => some (.reg r)
    | none => readPlain tab cs
  | _ => readPlain tab cs

/-! ## Statements (R115) -/

/-- A statement: an optional label, a mnemonic and its operands' texts. -/
structure Statement where
  label : Option (List Char)
  mnemonic : List Char
  operands : List (List Char)
deriving DecidableEq, Repr

/-- The words of a line: comma and blank separate alike (D37). -/
def words : List Char → List (List Char)
  | [] => [[]]
  | c :: cs =>
    if c = ' ' ∨ c = ',' then [] :: words cs
    else
      match words cs with
      | w :: ws => (c :: w) :: ws
      | [] => [[c]]

/-- `Name:` at the start of a line. -/
def labelOf (w : List Char) : Option (List Char) :=
  if w.getLast? = some ':' then some w.dropLast else none

/-- One line: the comment from `;` on is dropped, the empty words too. -/
def readStatement (line : List Char) : Option Statement :=
  match (words (splitAtChar ';' line).1).filter fun w => !w.isEmpty with
  | [] => none
  | w :: ws =>
    match labelOf w, ws with
    | some l, m :: ops => some ⟨some l, m, ops⟩
    | some l, [] => some ⟨some l, [], []⟩
    | none, ops => some ⟨none, w, ops⟩

end Sys2Proof.Machine
end

