-- ==== Sys2Proof/Tests/Slice0.lean ====
section
/-!
SUPPORT. Tests: decoding of words written out from 30_encoding.md R111 (bit groups op, ra, sh, am, bias, xi,
upd, addr), the smoke test of WellFormed, one step per vector of 95_test_vectors.md (V<n>, the expected
values are the spec's), the assembler's examples of R118, and for each obligation with hypotheses a
concrete state that meets them.
-/

namespace Sys2Proof.Tests

open Sys2Proof Sys2Proof.Machine

/-! ## Decode: one word for every constructor -/

theorem test_decode_operands_and_logic :
    decode 0b000000_000_00_000_0_00_00_0000000000000#32 = .ok (.nop none) ∧
    decode 0b000000_000_00_100_0_01_10_0000000000000#32 = .ok (.nop (some (.indexed .x1 .dec false))) ∧
    decode 0b000001_011_00_011_0_00_00_0000000000111#32 = .ok (.and .r3 (.ramDirect 7 false)) ∧
    decode 0b000010_001_00_010_0_00_00_0000000000000#32 = .ok (.ior .r1 (.romDirect 0)) ∧
    decode 0b000011_010_00_010_0_00_00_1111111111111#32 = .ok (.xor .r2 (.romDirect 0x1FFF)) ∧
    decode 0b000100_000_00_100_0_01_01_0000000000000#32 = .ok (.add .r0 (.indexed .x1 .inc false)) ∧
    decode 0b000101_001_00_010_0_00_00_0000000000000#32 = .ok (.sub .r1 (.romDirect 0)) ∧
    decode 0b000110_000_00_100_0_00_10_0000000000000#32 = .ok (.sbx .r0 (.indexed .x0 .dec false)) := by decide

theorem test_decode_shifts :
    decode 0b000111_000_00_011_1_00_00_1000000000000#32 = .ok (.ldsDsr (.ramDirect 0x1000 true)) ∧
    decode 0b001000_000_00_001_0_00_00_0000000000111#32 = .ok (.slaDynR .r0 .r7) ∧
    decode 0b001001_110_00_100_1_11_00_0000000000000#32 = .ok (.slaDynT .r6 (.indexed .x3 .none true)) ∧
    decode 0b001010_001_10_001_0_00_00_0000000000000#32 = .ok (.sllR .two .r1 .r0) ∧
    decode 0b001011_010_01_010_0_00_00_0000000000101#32 = .ok (.sllT .one .r2 (.romDirect 5)) ∧
    decode 0b001100_000_10_001_0_00_00_0000000000011#32 = .ok (.srlR .two .r0 .r3) ∧
    decode 0b001101_101_01_011_0_00_00_0000000001001#32 = .ok (.srlT .one .r5 (.ramDirect 9 false)) ∧
    decode 0b001110_000_10_001_0_00_00_0000000000011#32 = .ok (.sraR .two .r0 .r3) ∧
    decode 0b001111_000_01_010_0_00_00_0000000000000#32 = .ok (.sraT .one .r0 (.romDirect 0)) ∧
    decode 0b010000_100_00_001_0_00_00_0000000000010#32 = .ok (.sirR .r4 .r2) ∧
    decode 0b010001_010_00_100_0_00_01_0000000000000#32 = .ok (.sirT .r2 (.indexed .x0 .inc false)) := by decide

theorem test_decode_loads_stores_and_psr :
    decode 0b010010_000_00_100_0_11_01_0000000000000#32 = .ok (.lda .r0 (.indexed .x3 .inc false)) ∧
    decode 0b010011_100_00_100_0_10_11_0000000000000#32 = .ok (.sta .r4 (.indexed .x2 .rev false)) ∧
    decode 0b010100_000_00_010_0_00_00_0000000000000#32 = .ok (.ldsPsr (.romDirect 0)) ∧
    decode 0b010101_000_00_011_0_00_00_0000000100001#32 = .ok (.stsPsr (.ramDirect 0x21 false)) := by decide

theorem test_decode_tests :
    decode 0b010110_000_00_010_0_00_00_0000000000000#32 = .ok (.teq .r0 (.romDirect 0)) ∧
    decode 0b010111_111_00_010_0_00_00_0000000000001#32 = .ok (.tne .r7 (.romDirect 1)) ∧
    decode 0b011000_000_00_010_0_00_00_0000000000000#32 = .ok (.tgr .r0 (.romDirect 0)) ∧
    decode 0b011001_001_00_100_0_10_00_0000000000000#32 = .ok (.tge .r1 (.indexed .x2 .none false)) ∧
    decode 0b011010_000_00_010_0_00_00_0000000000000#32 = .ok (.tsm .r0 (.romDirect 0)) ∧
    decode 0b011011_011_00_011_0_00_00_0000000000100#32 = .ok (.tse .r3 (.ramDirect 4 false)) ∧
    decode 0b011100_000_00_010_0_00_00_0000000000000#32 = .ok (.tbw .r0 (.romDirect 0)) := by decide

theorem test_decode_branches_and_loops :
    decode 0b011101_000_00_101_0_00_00_0000000010000#32 = .ok (.brt 0x10) ∧
    decode 0b011110_000_00_101_0_00_01_1111111111111#32 = .ok (.brf 0x3FFF) ∧
    decode 0b011111_000_00_101_0_00_01_0000000000001#32 = .ok (.bra 0x2001) ∧
    decode 0b100000_000_00_011_0_00_00_0000000000011#32 = .ok (.bri (.ramDirect 3 false)) ∧
    decode 0b100001_010_00_011_0_00_00_0000000000011#32 = .ok (.cyc .r2 (.ramDirect 3 false)) ∧
    decode 0b100010_010_00_100_1_01_10_0000000000000#32 = .ok (.rpt .r2 (.indexed .x1 .dec true)) ∧
    decode 0b100011_000_00_101_0_00_00_0000000010000#32 = .ok (.jsr 0x10) ∧
    decode 0b100100_000_00_011_0_00_00_0000000001001#32 = .ok (.stsRsr (.ramDirect 9 false)) := by decide

theorem test_decode_bar_ports_and_control :
    decode 0b100101_000_00_010_0_00_00_0000000000000#32 = .ok (.ldsBar (.romDirect 0)) ∧
    decode 0b100110_000_00_011_0_00_00_0000000001001#32 = .ok (.stsBar (.ramDirect 9 false)) ∧
    decode 0b100111_000_00_010_0_00_00_0000000000000#32 = .ok (.addBar (.romDirect 0)) ∧
    decode 0b101000_001_00_011_0_00_00_0000000000111#32 = .ok (.ldsCom .p1 (.ramDirect 7 false)) ∧
    decode 0b101001_000_00_100_0_01_01_0000000000000#32 = .ok (.stsCom .p0 (.indexed .x1 .inc false)) ∧
    decode 0b101010_000_00_010_0_00_00_0000000000011#32 = .ok (.ctl (.romDirect 3)) ∧
    decode 0b101011_000_00_000_0_00_00_0000000000000#32 = .ok (.brk) ∧
    decode 0b101100_000_00_010_0_00_00_0000000000000#32 = .ok (.wai (.romDirect 0)) := by decide

theorem test_decode_index_registers_and_the_flush :
    decode 0b101101_011_00_001_0_00_00_0000000000010#32 = .ok (.xfrPtr .x3 .r2) ∧
    decode 0b101110_011_00_010_0_00_00_0000000000000#32 = .ok (.ldxPtr .x3 (.romDirect 0)) ∧
    decode 0b101111_001_00_100_0_01_01_0000000000000#32 = .ok (.stxPtr .x1 (.indexed .x1 .inc false)) ∧
    decode 0b110000_010_00_010_0_00_00_0000000000000#32 = .ok (.ldxInc .x2 (.romDirect 0)) ∧
    decode 0b110001_000_00_011_0_00_00_0000000000010#32 = .ok (.ldxBas .x0 (.ramDirect 2 false)) ∧
    decode 0b110010_011_00_010_0_00_00_0000000000001#32 = .ok (.ldxLim .x3 (.romDirect 1)) ∧
    decode 0b110011_000_00_000_0_00_00_0000000000000#32 = .ok (.flsWbb) := by decide

/-! Words that are no instruction (V11, V12, V13, V49; R112, R113). -/

theorem test_illegal_opcode : decode 0xD0000000#32 = .error .opcode := by decide
theorem test_illegal_register_field : decode 0x50880000#32 = .error .registerField := by decide
theorem test_illegal_port_field : decode 0xA10C0007#32 = .error .registerField := by decide
theorem test_illegal_count : decode 0x28640000#32 = .error .countField := by decide
theorem test_illegal_sh : decode 0x48280000#32 = .error .countField := by decide
theorem test_illegal_class : decode 0x48180000#32 = .error .operandClass := by decide
theorem test_store_to_rom : decode 0x4C080000#32 = .error .operandClass := by decide
theorem test_biased_x0 : decode 0x48120000#32 = .error .operandBits := by decide
theorem test_reversed_x0 : decode 0x48106000#32 = .error .operandBits := by decide
theorem test_stray_bit : decode 0x480A2000#32 = .error .operandBits := by decide
theorem test_table_word_brk : decodeTableWord 32 0xAC000000 = some .brk := by decide
theorem test_table_word_refused : decodeTableWord 32 0xFFFFFFFF = none := by decide

/-! ## WellFormed: an ill-formed term for each check -/

theorem test_wf_reversed_x0 : (Instr.lda .r0 (.indexed .x0 .rev false)).wellFormed = false := by decide
theorem test_wf_biased_x0 : (Instr.lda .r0 (.indexed .x0 .none true)).wellFormed = false := by decide
theorem test_wf_store_rom : (Instr.sta .r0 (.romDirect 0)).wellFormed = false := by decide
theorem test_wf_store_x0 : (Instr.stxPtr .x1 (.indexed .x0 .inc false)).wellFormed = false := by decide
theorem test_wf_indirect_rom : (Instr.bri (.romDirect 0)).wellFormed = false := by decide
theorem test_wf_nop_direct : (Instr.nop (some (.ramDirect 0 false))).wellFormed = false := by decide
theorem test_wf_nop_reversed_x0 : (Instr.nop (some (.indexed .x0 .rev false))).wellFormed = false := by decide
theorem test_wf_legal : (Instr.lda .r0 (.indexed .x3 .rev true)).wellFormed = true := by decide

/-! ## One step of each instruction -/

/-- The state after the one instruction `w`, if its step gives one. -/
def after (w : Nat) (s : State) : Option State :=
  match step (s.withFetchWord 32 w) with
  | .next s' => some s'
  | _ => none

theorem test_V1_limit_hit : (after 0x4811A000
    { State.reset with idx := { State.reset.idx with x3 := ⟨0x16, 0x3, 0xA, 0x16⟩ }, ram := [(22, ⟨0x00000005, 0x00000006⟩)] }).map
    (fun s => (s.gpr.r0, s.idx.x3.ptr)) =
    some (⟨0x00000005, 0x00000006⟩, 10) := by decide
theorem test_V3_decrement_wraps : (after 0x4811C000
    { State.reset with idx := { State.reset.idx with x3 := ⟨0x1, 0x3, 0xA, 0x0⟩ }, ram := [(1, ⟨0x00000005, 0x00000006⟩)] }).map
    (fun s => (s.gpr.r0, s.idx.x3.ptr)) =
    some (⟨0x00000005, 0x00000006⟩, 0x1FFE) := by decide
theorem test_V4_reversed_carry : (after 0x48116000
    { State.reset with idx := { State.reset.idx with x2 := ⟨0x7, 0x4, 0x0, 0x8⟩ }, ram := [(7, ⟨0x00000005, 0x00000006⟩)] }).map
    (fun s => s.idx.x2.ptr) =
    some 8 := by decide
theorem test_V5_reversed : (after 0x48116000
    { State.reset with idx := { State.reset.idx with x2 := ⟨0x1FFF, 0x1000, 0x0, 0x20⟩ }, ram := [(8191, ⟨0x00000005, 0x00000006⟩)] }).map
    (fun s => s.idx.x2.ptr) =
    some 0x20 := by decide
theorem test_V6_biased_index : (after 0x48128000
    { State.reset with idx := { State.reset.idx with x1 := ⟨0x1FFF, 0x0, 0x0, 0x0⟩ }, bar := 0x100, ram := [(255, ⟨0x00000077, 0x00000000⟩)] }).map
    (fun s => (s.gpr.r0, s.idx.x1.ptr)) =
    some (⟨0x00000077, 0x00000000⟩, 0x1FFF) := by decide
theorem test_V7_biased_direct : (after 0x480E1000
    { State.reset with ram := [(61440, ⟨0x00000088, 0x00000000⟩)] }).map (fun s => s.gpr.r0) =
    some ⟨0x00000088, 0x00000000⟩ := by decide
theorem test_V8_unbiased_index : (after 0x48108000
    { State.reset with idx := { State.reset.idx with x1 := ⟨0x1FFF, 0x0, 0x0, 0x0⟩ }, ram := [(8191, ⟨0x00000099, 0x00000000⟩)] }).map
    (fun s => s.gpr.r0) =
    some ⟨0x00000099, 0x00000000⟩ := by decide
theorem test_V9_x0_decrement : (after 0x48104000
    { State.reset with idx := { State.reset.idx with x0 := ⟨0x0, 0x1, 0x9, 0x5⟩ }, rom := [(0, ⟨0x00000011, 0x00000000⟩)] }).map
    (fun s => (s.gpr.r0, s.idx.x0.ptr)) =
    some (⟨0x00000011, 0x00000000⟩, 0x1FFF) := by decide
theorem test_V20_and : (after 0x058C0007
    { State.reset with gpr := { State.reset.gpr with r3 := ⟨0xFFFFFFFF, 0xFFFFFFFF⟩ }, ram := [(7, ⟨0x0F0F0F0F, 0x00000000⟩)] }).map
    (fun s => s.gpr.r3) =
    some ⟨0x0F0F0F0F, 0x00000000⟩ := by decide
theorem test_V21_ior : (after 0x08880000
    { State.reset with gpr := { State.reset.gpr with r1 := ⟨0x00000001, 0x80000000⟩ }, rom := [(0, ⟨0x80000000, 0x00000001⟩)] }).map
    (fun s => s.gpr.r1) =
    some ⟨0x80000001, 0x80000001⟩ := by decide
theorem test_V22_xor : (after 0x0D080000
    { State.reset with gpr := { State.reset.gpr with r2 := ⟨0x12345678, 0x9ABCDEF0⟩ }, rom := [(0, ⟨0x12345678, 0x9ABCDEF0⟩)] }).map
    (fun s => s.gpr.r2) =
    some ⟨0x00000000, 0x00000000⟩ := by decide
theorem test_V23_add_wraps : (after 0x10080000
    { State.reset with gpr := { State.reset.gpr with r0 := ⟨0x7FFFFFFF, 0x80000000⟩ }, rom := [(0, ⟨0x00000001, 0x80000000⟩)] }).map
    (fun s => s.gpr.r0) =
    some ⟨0x80000000, 0x00000000⟩ := by decide
theorem test_V24_add_saturates : (after 0x10080000
    { State.reset with psr := 0x00200000, gpr := { State.reset.gpr with r0 := ⟨0x7FFFFFFF, 0x80000000⟩ }, rom := [(0, ⟨0x00000001, 0x80000000⟩)] }).map
    (fun s => (s.gpr.r0, s.psr)) =
    some (⟨0x7FFFFFFF, 0x80000000⟩, 0xC0200000) := by decide
theorem test_V25_sub : (after 0x14880000
    { State.reset with psr := 0x00200000, gpr := { State.reset.gpr with r1 := ⟨0x80000000, 0x7FFFFFFF⟩ }, rom := [(0, ⟨0x00000001, 0xFFFFFFFF⟩)] }).map
    (fun s => (s.gpr.r1, s.psr)) =
    some (⟨0x80000000, 0x7FFFFFFF⟩, 0xC0200000) := by decide
theorem test_V26_sbx : (after 0x18080000
    { State.reset with psr := 0x00200000, gpr := { State.reset.gpr with r0 := ⟨0x80000000, 0x00000005⟩ } }).map
    (fun s => (s.gpr.r0, s.psr)) =
    some (⟨0x7FFFFFFF, 0xFFFFFFFB⟩, 0x80200000) := by decide
theorem test_V27_sbx_wraps : (after 0x18080000
    { State.reset with gpr := { State.reset.gpr with r0 := ⟨0x80000000, 0x00000005⟩ } }).map (fun s =>
    s.gpr.r0) =
    some ⟨0x80000000, 0xFFFFFFFB⟩ := by decide
theorem test_V28_nop : (after 0x0010C000
    { State.reset with idx := { State.reset.idx with x1 := ⟨0x201, 0x1, 0x0, 0x1FFF⟩ } }).map (fun s =>
    (s.idx.x1.ptr, s.cmpf, s.pcr)) =
    some (0x200, true, 1) := by decide
theorem test_lds_dsr : (after 0x1C080000 { State.reset with rom := [(0, ⟨0xFFFFFFFC, 0x00000009⟩)] }).map (fun
    s => s.dsr) =
    some 0xFFFFFFFC := by decide
theorem test_V40_sll_saturates : (after 0x28240000
    { State.reset with psr := 0x00200000, gpr := { State.reset.gpr with r0 := ⟨0x40000000, 0xA0000000⟩ } }).map
    (fun s => (s.gpr.r0, s.psr)) =
    some (⟨0x7FFFFFFF, 0x80000000⟩, 0xC0200000) := by decide
theorem test_V41_sll : (after 0x28C40000
    { State.reset with gpr := { State.reset.gpr with r0 := ⟨0x40000001, 0xFFFFFFFF⟩ } }).map (fun s =>
    (s.gpr.r0, s.gpr.r1)) =
    some (⟨0x40000001, 0xFFFFFFFF⟩, ⟨0x00000004, 0xFFFFFFFC⟩) := by decide
theorem test_sll_location : (after 0x2D480005
    { State.reset with psr := 0x00200000, rom := [(5, ⟨0xF0000000, 0x00000003⟩)] }).map (fun s => (s.gpr.r2, s.psr)) =
    some (⟨0xC0000000, 0x0000000C⟩, 0x00200000) := by decide
theorem test_V42_srl : (after 0x30440003
    { State.reset with gpr := { State.reset.gpr with r3 := ⟨0x80000007, 0xFFFFFFFF⟩ } }).map (fun s =>
    s.gpr.r0) =
    some ⟨0x20000001, 0x3FFFFFFF⟩ := by decide
theorem test_srl_location : (after 0x34280000
    { State.reset with rom := [(0, ⟨0x80000003, 0xFFFFFFFF⟩)] }).map (fun s => s.gpr.r0) =
    some ⟨0x40000001, 0x7FFFFFFF⟩ := by decide
theorem test_V43_sra : (after 0x38440003
    { State.reset with gpr := { State.reset.gpr with r3 := ⟨0x80000007, 0x7FFFFFFF⟩ } }).map (fun s =>
    s.gpr.r0) =
    some ⟨0xE0000001, 0x1FFFFFFF⟩ := by decide
theorem test_V44_sra_location : (after 0x3C280000
    { State.reset with rom := [(0, ⟨0xFFFFFFFF, 0x00000001⟩)] }).map (fun s => s.gpr.r0) =
    some ⟨0xFFFFFFFF, 0x00000000⟩ := by decide
theorem test_sir_register : (after 0x41040000
    { State.reset with gpr := { State.reset.gpr with r0 := ⟨0x00000001, 0x00000002⟩ } }).map (fun s =>
    (s.gpr.r0, s.gpr.r2)) =
    some (⟨0x00000001, 0x00000002⟩, ⟨0x00000002, 0x00000001⟩) := by decide
theorem test_V45_sir : (after 0x45102000
    { State.reset with idx := { State.reset.idx with x0 := ⟨0x5, 0x2, 0x0, 0x1FFF⟩ }, rom := [(5, ⟨0xAAAA0000, 0x0000BBBB⟩)] }).map
    (fun s => (s.gpr.r2, s.idx.x0.ptr)) =
    some (⟨0x0000BBBB, 0xAAAA0000⟩, 7) := by decide
theorem test_V46_sla_dyn : (after 0x20040000
    { State.reset with dsr := 31, gpr := { State.reset.gpr with r0 := ⟨0x00000003, 0x00000001⟩ } }).map (fun s
    => s.gpr.r0) =
    some ⟨0x80000000, 0x80000000⟩ := by decide
theorem test_V47_sla_dyn_right : (after 0x20040000
    { State.reset with dsr := 0xFFFFFFFC, gpr := { State.reset.gpr with r0 := ⟨0x80000010, 0x00000070⟩ } }).map
    (fun s => s.gpr.r0) =
    some ⟨0xF8000001, 0x00000007⟩ := by decide
theorem test_sla_dyn_location : (after 0x25080000
    { State.reset with dsr := 0xFFFFFFE1, rom := [(0, ⟨0x80000000, 0x7FFFFFFF⟩)] }).map (fun s => s.gpr.r2) =
    some ⟨0xFFFFFFFF, 0x00000000⟩ := by decide
theorem test_V60_lda : (after 0x48080000 { State.reset with rom := [(0, ⟨0x40000000, 0x20000000⟩)] }).map (fun
    s => s.gpr.r0) =
    some ⟨0x40000000, 0x20000000⟩ := by decide
theorem test_V61_sta : (after 0x4C0C0020
    { State.reset with gpr := { State.reset.gpr with r0 := ⟨0x7FFFFFFF, 0x02000000⟩ } }).map (fun s => (s.ram,
    s.wbbEmpty)) =
    some ([(0x20, ⟨0x7FFFFFFF, 0x02000000⟩)], false) := by decide
theorem test_V62_lds_psr : (after 0x50080000
    { State.reset with psr := 0x80000000, rom := [(0, ⟨0xFFFFFFFF, 0x12345678⟩)], mac := { State.reset.mac with a := ⟨⟨1, 2⟩, false⟩, lreg := ⟨⟨3, 4⟩, true⟩ } }).map
    (fun s => (s.psr, s.mac.a, s.mac.lreg)) =
    some (0x802FFFFF, .zero, .zero) := by decide
theorem test_sts_psr : (after 0x540C0021 { State.reset with psr := 0x80200000 }).map (fun s => (s.ram.map fun
    e => (e.1, e.2.im), s.wbbEmpty)) =
    some ([(0x21, 0)], false) := by decide
theorem test_V70_tgr : (after 0x60080000
    { State.reset with cmpf := true, gpr := { State.reset.gpr with r0 := ⟨0x80000000, 0x00000000⟩ } }).map
    (fun s => (s.cmpf, s.pcr)) =
    some (false, 1) := by decide
theorem test_V71_tsm : (after 0x68080000
    { State.reset with cmpf := true, gpr := { State.reset.gpr with r0 := ⟨0x80000000, 0x00000000⟩ } }).map
    (fun s => (s.cmpf, s.pcr)) =
    some (true, 1) := by decide
theorem test_V72_teq : (after 0x58080000
    { State.reset with cmpf := true, gpr := { State.reset.gpr with r0 := ⟨0x00000005, 0x00000001⟩ }, rom := [(0, ⟨0x00000005, 0x00000000⟩)] }).map
    (fun s => (s.cmpf, s.pcr)) =
    some (false, 1) := by decide
theorem test_V73_tne : (after 0x5C080000
    { State.reset with cmpf := true, gpr := { State.reset.gpr with r0 := ⟨0x00000005, 0x00000001⟩ }, rom := [(0, ⟨0x00000005, 0x00000000⟩)] }).map
    (fun s => (s.cmpf, s.pcr)) =
    some (true, 1) := by decide
theorem test_V74_tbw : (after 0x70080000
    { State.reset with cmpf := true, gpr := { State.reset.gpr with r0 := ⟨0x00000000, 0x80000000⟩ }, rom := [(0, ⟨0x00000000, 0x80000000⟩)] }).map
    (fun s => (s.cmpf, s.pcr)) =
    some (true, 1) := by decide
theorem test_V75_tge : (after 0x64080000
    { State.reset with cmpf := true, gpr := { State.reset.gpr with r0 := ⟨0x00000007, 0x00000000⟩ }, rom := [(0, ⟨0x00000007, 0x00000009⟩)] }).map
    (fun s => (s.cmpf, s.pcr)) =
    some (true, 1) := by decide
theorem test_V76_test_never_sets : (after 0x58080000
    { State.reset with cmpf := false, gpr := { State.reset.gpr with r0 := ⟨0x00000007, 0x00000000⟩ }, rom := [(0, ⟨0x00000007, 0x00000000⟩)] }).map
    (fun s => (s.cmpf, s.pcr)) =
    some (false, 1) := by decide
theorem test_tse : (after 0x6C080000
    { State.reset with cmpf := true, gpr := { State.reset.gpr with r0 := ⟨0x00000008, 0x00000000⟩ }, rom := [(0, ⟨0x00000007, 0x00000009⟩)] }).map
    (fun s => (s.cmpf, s.pcr)) =
    some (false, 1) := by decide
theorem test_V77_cyc_taken : (after 0x850C0003
    { State.reset with ram := [(3, ⟨0x00003FFF, 0x00000000⟩)] }).map (fun s => (s.gpr.r2, s.pcr)) =
    some (⟨0xFFFFFFFF, 0xFFFFFFFF⟩, 0x3FFF) := by decide
theorem test_V78_cyc_falls_through : (after 0x850C0003
    { State.reset with gpr := { State.reset.gpr with r2 := ⟨0x00000001, 0x00000000⟩ }, ram := [(3, ⟨0x00003FFF, 0x00000000⟩)] }).map
    (fun s => (s.gpr.r2, s.pcr)) =
    some (⟨0x00000000, 0xFFFFFFFF⟩, 1) := by decide
theorem test_V79_bri : (after 0x800C0003 { State.reset with ram := [(3, ⟨0xFFFFC123, 0x00000055⟩)] }).map (fun
    s => (s.pcr, s.cmpf)) =
    some (0x0123, true) := by decide
theorem test_V80_jsr_wraps : (after 0x8C140010
    { State.reset with pcr := 0x3FFF }).map (fun s => (s.rsr, s.pcr)) =
    some (0, 0x10) := by decide
theorem test_V81_sts_rsr : (after 0x900C0009 { State.reset with rsr := 0x2001 }).map (fun s => s.ram) =
    some [(9, ⟨0xFFFFE001, 0x00000000⟩)] := by decide
theorem test_V82_brt : (after 0x74140010 { State.reset with pcr := 5 }).map (fun s => (s.pcr, s.cmpf)) =
    some (6, true) := by decide
theorem test_brt_taken : (after 0x74140010 { State.reset with cmpf := true }).map (fun s => (s.pcr, s.cmpf)) =
    some (0x10, true) := by decide
theorem test_V83_brf : (after 0x78140010 { State.reset with pcr := 5 }).map (fun s => (s.pcr, s.cmpf)) =
    some (0x10, true) := by decide
theorem test_bra : (after 0x7C142001 State.reset).map (fun s => s.pcr) =
    some 0x2001 := by decide
theorem test_rpt : (after 0x890C0003
    { State.reset with gpr := { State.reset.gpr with r2 := ⟨0x00000005, 0x00000000⟩ }, ram := [(3, ⟨0x00000004, 0x00000000⟩)] }).map
    (fun s => (s.loop, s.pcr)) =
    some (⟨true, 2, 4, 5, .r2⟩, 1) := by decide
theorem test_loop_end_starts_again : (after 0x00000000
    { State.reset with pcr := 4, loop := ⟨true, 2, 4, 5, .r2⟩ }).map (fun s => (s.loop, s.pcr)) =
    some (⟨true, 2, 4, 4, .r2⟩, 2) := by decide
theorem test_loop_ends_at_a_taken_branch : (after 0x7C142001
    { State.reset with pcr := 4, loop := ⟨true, 2, 4, 1, .r2⟩ }).map (fun s => (s.loop, s.pcr)) =
    some (⟨false, 2, 4, 0, .r2⟩, 0x2001) := by decide
theorem test_V90_lds_bar : (after 0x94080000
    { State.reset with rom := [(0, ⟨0x12345678, 0x00000000⟩)] }).map (fun s => s.bar) =
    some 0x5678 := by decide
theorem test_V91_add_bar : (after 0x9C080000
    { State.reset with bar := 8, rom := [(0, ⟨0xFFFFFFF0, 0x00000000⟩)] }).map (fun s => s.bar) =
    some 0xFFF8 := by decide
theorem test_V92_sts_bar : (after 0x980C0009 { State.reset with bar := 0x8000 }).map (fun s => s.ram) =
    some [(9, ⟨0xFFFF8000, 0x00000000⟩)] := by decide
theorem test_V93_lds_com : (after 0xA08C0007
    { State.reset with ram := [(7, ⟨0x12345678, 0x9ABCDEF0⟩)] }).map (fun s => (s.ports.qout, s.trace)) =
    some (0x12345678, [.out .p1 0x12345678]) := by decide
theorem test_lds_com_waits : (after 0xA08C0007
    { State.reset with ram := [(7, ⟨0x12345678, 0x9ABCDEF0⟩)], pins := { State.reset.pins with qoutReady := false } }).map
    (fun s => (s.run, s.pcr, s.trace)) =
    some (.waiting (.send .p1 0x12345678), 0, []) := by decide
theorem test_V94_sts_com : (after 0xA410A000
    { State.reset with idx := { State.reset.idx with x1 := ⟨0x10, 0x1, 0x0, 0x1FFF⟩ }, pins := { State.reset.pins with pin := 0x42 } }).map
    (fun s => (s.ram, s.idx.x1.ptr, s.trace)) =
    some ([(0x10, ⟨0x00000042, 0x00000000⟩)], 0x11, [.inp .p0 0x42]) := by decide
theorem test_V95_ctl : (after 0xA8080003 { State.reset with rom := [(3, ⟨0x00000001, 0x00000000⟩)] }).map (fun
    s => (s.ports.kout, s.trace)) =
    some (1, [.kout 1]) := by decide
theorem test_V96_brk : (after 0xAC000000 { State.reset with pcr := 7 }).map (fun s => (s.run, s.pcr, s.cmpf)) =
    some (.halted, 7, false) := by decide
theorem test_V98_fls_wbb : (after 0xCC000000 { State.reset with wbbEmpty := false }).map (fun s => s.wbbEmpty) =
    some true := by decide
theorem test_V110_ldx_inc : (after 0xC1080000
    { State.reset with rom := [(0, ⟨0xFFFFFFFD, 0x00000000⟩)] }).map (fun s => s.idx.x2.inc) =
    some 0x1FFD := by decide
theorem test_V111_stx_ptr : (after 0xBC90A000
    { State.reset with idx := { State.reset.idx with x1 := ⟨0x1000, 0x1, 0x0, 0x0⟩ } }).map (fun s => (s.ram,
    s.idx.x1.ptr)) =
    some ([(0x1000, ⟨0xFFFFF000, 0x00000000⟩)], 0x1001) := by decide
theorem test_V112_xfr_ptr : (after 0xB5840002
    { State.reset with gpr := { State.reset.gpr with r2 := ⟨0xFFFFFFFF, 0x00000003⟩ } }).map (fun s =>
    s.idx.x3.ptr) =
    some 0x1FFF := by decide
theorem test_V113_ldx_ptr : (after 0xB9880000
    { State.reset with rom := [(0, ⟨0x00002001, 0x00000000⟩)] }).map (fun s => s.idx.x3.ptr) =
    some 1 := by decide
theorem test_V114_ldx_bas : (after 0xC5880000
    { State.reset with rom := [(0, ⟨0x0000000A, 0x00000000⟩)] }).map (fun s => s.idx.x3) =
    some ⟨0, 0, 10, 0⟩ := by decide
theorem test_V114_ldx_lim : (after 0xC9880000
    { State.reset with rom := [(0, ⟨0x00000016, 0x00000000⟩)] }).map (fun s => s.idx.x3) =
    some ⟨0, 0, 0, 22⟩ := by decide
/-- Every register of the Butterfly/MAC unit specified, and zero. -/
def zeroMac : Mac := ⟨.zero, .zero, .zero, .zero, .zero, .zero, .zero, .zero, .zero⟩
theorem test_V120_r4 : (after 0x4A080000 { State.reset with rom := [(0, ⟨0x00000011, 0x00000022⟩)] }).map (fun
    s => (s.mac.r4in, readReg .r4 s)) =
    some (⟨⟨0x11, 0x22⟩, true⟩, ⟨0x11, 0x22⟩) := by decide
theorem test_V121_r5_loads_r4 : (after 0x4A880000
    { State.reset with psr := 0x400, rom := [(0, ⟨0x00000033, 0x00000044⟩)] }).map (fun s => (s.mac.r5in,
    s.mac.r4in)) =
    some (⟨⟨0x33, 0x44⟩, true⟩, ⟨⟨0x33, 0x44⟩, true⟩) := by decide
theorem test_V122_r7_loads_r6 : (after 0x4B880000
    { State.reset with psr := 0x800, rom := [(0, ⟨0x00000055, 0x00000066⟩)], mac := { State.reset.mac with r6in := ⟨⟨7, 8⟩, true⟩ } }).map
    (fun s => (s.mac.r7in, s.mac.r6in, s.mac.lreg)) =
    some (⟨⟨0x55, 0x66⟩, true⟩, ⟨⟨0x55, 0x66⟩, true⟩, ⟨⟨7, 8⟩, true⟩) := by decide
theorem test_V124_r7_loads_r6_through_x0 : (after 0x4B91A000
    { State.reset with psr := 0x1000, idx := { State.reset.idx with x0 := ⟨0x100, 1, 0, 0x1FFF⟩, x3 := ⟨3, 1, 0, 0x1FFF⟩ }, rom := [(256, ⟨0x40000000, 0x40000000⟩)], ram := [(3, ⟨0x00000009, 0x00000009⟩)] }).map
    (fun s => (s.mac.r7in, s.mac.r6in, s.idx.x0.ptr, s.idx.x3.ptr)) =
    some (⟨⟨9, 9⟩, true⟩, ⟨⟨0x40000000, 0x40000000⟩, true⟩, 0x101, 4) := by decide
theorem test_V127_q_through_r4 : (after 0x4E0C0020
    { State.reset with psr := 0x20000, mac := { State.reset.mac with q := ⟨⟨0x40000000, 0x30000000⟩, true⟩ } }).map
    (fun s => s.ram) =
    some [(0x20, ⟨0x40000000, 0x30000000⟩)] := by decide
/-- V123: the automatic load without an indexed operand leaves r6 without a value. -/
theorem test_V123_r6_unspecified : (after 0x4B880000
    { State.reset with psr := 0x1000 }).map (fun s => (s.mac.r6in.specified, s.mac.r7in)) =
    some (false, ⟨⟨0, 0⟩, true⟩) := by decide
/-- R334: an r7 write right after a factor was written makes set flags draws. -/
theorem test_early_r7_opens_the_flags : (after 0x4B880000
    { State.reset with
      mac := zeroMac, psr := 0xF3000000, flagsWritten := 0xF3000000, mulw := some 6, icount := 9 }).map
    (fun s => (s.flagsWritten, s.mac.q.specified)) =
    some (0xC0000000, false) := by decide
/-- R284: one instruction later they stay set. -/
theorem test_r7_keeps_the_flags : (after 0x4B880000
    { State.reset with
      mac := zeroMac, psr := 0xF3000000, flagsWritten := 0xF3000000, mulw := some 6, icount := 10 }).map
    (fun s => (s.psr, s.flagsWritten, s.mac.q)) =
    some (0xF3000000, 0xF3000000, .zero) := by decide
/-- R271: an unspecified factor leaves the product unspecified, whatever the other factor is. -/
theorem test_unspecified_factor : (macOut { State.reset with
    mac := { zeroMac with r6in := ⟨⟨0, 0⟩, false⟩ }, mulw := some 0, icount := 9 }).mulOut6 = none := by
  decide

/-! The parameters of R9. -/

/-- `P_DIRECT_ADDR_BITS` = 4: 0xF is the offset -1 (R134), and 0x10 does not fit (R111). -/
theorem test_four_address_bits : (after 0x480E000F
    { State.reset with cfg := { Config.suggested with directBits := 4 }, ram := [(0xFFFF, ⟨5, 6⟩)] }).map
    (fun s => s.gpr.r0) = some ⟨5, 6⟩ := by decide
/-- `K_WIDTH` = 4. -/
theorem test_four_control_bits : (after 0xA8080003
    { State.reset with cfg := { Config.suggested with kWidth := 4 }, rom := [(3, ⟨0x123, 0⟩)] }).map
    (fun s => s.ports.kout) = some 3 := by decide

/-! Steps without a meaning. -/

/-- Why the one instruction `w` stops, if it does. -/
def stopOf (w : Nat) (s : State) : Option Fault :=
  match step (s.withFetchWord 32 w) with
  | .fault f => some f
  | _ => none

theorem test_V10_self_conflict : stopOf 0xB890A000 State.reset = some .selfConflict := by decide
theorem test_address_does_not_fit : stopOf 0x480E0010
    { State.reset with cfg := { Config.suggested with directBits := 4 } } = some .illegalInstruction := by decide
theorem test_V11_store_rom : stopOf 0x4C080000 State.reset = some .illegalInstruction := by decide
theorem test_V84_rpt_no_pass : stopOf 0x890C0003
    { State.reset with ram := [(3, ⟨0x00000004, 0x00000000⟩)] } = some .repeatCount := by decide
theorem test_rpt_nested : stopOf 0x890C0003
    { State.reset with gpr := { State.reset.gpr with r2 := ⟨0x00000005, 0x00000000⟩ }, ram := [(3, ⟨0x00000004, 0x00000000⟩)], loop := ⟨true, 2, 4, 5, .r1⟩ }
    = some .nestedRepeat := by decide
theorem test_rpt_end_at_slot : stopOf 0x890C0003
    { State.reset with gpr := { State.reset.gpr with r2 := ⟨0x00000005, 0x00000000⟩ }, ram := [(3, ⟨0x00000001, 0x00000000⟩)] }
    = some .repeatEnd := by decide
theorem test_counter_write : stopOf 0x49080000
    { State.reset with loop := ⟨true, 2, 4, 5, .r2⟩ } = some .counterWrite := by decide
theorem test_V125_r7_through_x0 : stopOf 0x4B902000
    { State.reset with psr := 0x1000 } = some .r6LoadCollision := by decide
theorem test_unwritten_ram : stopOf 0x480C0000 State.reset = some .unwrittenRead := by decide
/-- V63 and the end of P1: the stored image but for the three drawn bits. -/
theorem test_V63_image (s : State) (hp : s.psr = 0x80200000) (hw : s.flagsWritten = 0xF3000000) (hb :
    s.wbbEmpty = true) :
    psrRead s &&& 0xF3BFFFFF#32 = 0x80A00000#32 := by
  have split (f o m x : W32) (h : o &&& m = 0) : (x ||| f &&& o) &&& m = x &&& m := by
    apply BitVec.eq_of_getLsbD_eq
    intro n _
    have hn := congrArg (fun v => BitVec.getLsbD v n) h
    simp only [BitVec.getLsbD_and, BitVec.getLsbD_or] at hn ⊢
    revert hn
    rw [show BitVec.getLsbD (0 : W32) n = false from BitVec.getLsbD_zero]
    generalize o.getLsbD n = a, m.getLsbD n = b, f.getLsbD n = c, x.getLsbD n = d
    revert a b c d
    decide
  unfold psrRead
  rw [split _ _ _ _ (by simp only [psrOpen, hw, hb]; decide), hp, hw, hb]
  decide

theorem test_nothing_placed : step State.reset = .fault .illegalInstruction := rfl
theorem test_halted : step { State.reset with run := .halted } = .refused .halted := rfl

/-! An integer area (E19, E20): 32-bit words, read with imaginary part 0. -/

def integerRam : State :=
  { State.reset with cfg := { Config.suggested with ramInt := [⟨0x20, 16⟩] }, gpr := { State.reset.gpr with r0 := ⟨7, 8⟩ } }

theorem test_integer_store : (after 0x4C0C0020 integerRam).map (fun s => s.ram) = some [(0x20, ⟨7, 0⟩)] := by decide

/-! The memory operations on small memories. -/

theorem test_memory_rising : Memory.insert 5 1 [(3, 0), (9, 2)] = ([(3, 0), (5, 1), (9, 2)] : Memory Nat) := by decide
theorem test_memory_replaces : Memory.insert 3 1 [(3, 0), (9, 2)] = ([(3, 1), (9, 2)] : Memory Nat) := by decide
theorem test_memory_not_rising : Memory.wf (fun _ _ => true) [(9, 2), (3, 0)] = false := by decide
theorem test_reset_memories : State.reset.memoriesCanonical := by decide

/-! ## The assembler's number and operand syntax (R117, R118: E3, E8, E10, E13) -/

theorem test_literal_minus_one : readLiteral ['-', '1', '.', '0'] = some ⟨0xFFFFFFFF, 0⟩ := by decide
theorem test_literal_fractions :
    readLiteral ['0', '.', '5', ':', '0', '.', '2', '5'] = some ⟨0x40000000, 0x20000000⟩ := by decide
theorem test_literal_hex :
    readLiteral ['0', 'x', '1', '0', '0', ':', '0', 'x', '1', '0'] = some ⟨0x100, 0x10⟩ := by decide
theorem test_operand_biased :
    readOperandText [] ['@', 'b', 'a', 'r', ':', 'x', '2', '+'] = some (.mem (.indexed .x2 .inc true)) := by decide
theorem test_statement : readStatement ['s', 't', 'a', ' ', 'r', '4', ',', ' ', '@', 'x', '2', '*', ';', 'c'] =
    some ⟨none, ['s', 't', 'a'], [['r', '4'], ['@', 'x', '2', '*']]⟩ := by decide

/-! ## A state that meets the hypotheses of each obligation -/

/-- Words in RAM and DataROM, index registers at work, every register writable. -/
def sample : State :=
  { State.reset with
    rom := [(3, ⟨5, 6⟩)]
    ram := [(7, ⟨0x10, 0x20⟩), (8, ⟨4, 0⟩)]
    idx := ⟨⟨3, 1, 0, 3⟩, ⟨7, 1, 2, 9⟩, ⟨7, 1, 2, 7⟩, ⟨8, 4, 0, 0x40⟩⟩
    gpr := ⟨⟨1, 2⟩, ⟨3, 4⟩, ⟨5, 6⟩, ⟨7, 8⟩⟩
    mac := zeroMac
    cfg := { Config.suggested with romInt := [⟨0, 2⟩], ramInt := [⟨8, 1⟩] } }

/-- The end of a loop with two passes left, on counter register r2. -/
def looping : State := { sample with pcr := 9, loop := ⟨true, 4, 9, 2, .r2⟩ }

/-- A processor in which automatic loads are on: r5 loads r4, r7 loads r6 through x0. -/
def loading : State := { sample with psr := 0x1400 }

theorem witness_DecodeOfEncode : (Instr.sllT .two .r7 (.indexed .x3 .rev true)).wellFormed = true := by decide
theorem witness_EncodeOfDecode :
    decode 0x2FD3E000#32 = .ok (.sllT .two .r7 (.indexed .x3 .rev true)) := by decide
theorem witness_StepRunsDecodedInstruction :
    let s : State := { sample with code := [(0, 0xAC000000)] }
    (s.run = .running ∧ Memory.lookup s.pcr.toNat s.code = some 0xAC000000 ∧ decode 0xAC000000 = .ok .brk) ∧
      s.env = [] ∧ ({ s with env := [s.pins] } : State).env = s.pins :: [] := by decide
theorem witness_StepWithoutInstruction :
    (sample.run = .running ∧ Memory.lookup sample.pcr.toNat sample.code = none) ∧
      Memory.lookup 0 [(0, 0xFC000000#32)] = some 0xFC000000#32 ∧ decode 0xFC000000#32 = .error .opcode ∧
      ({ sample with run := .waiting (.cond 0) } : State).run = .waiting (.cond 0) ∧
      ({ sample with run := .halted } : State).run = .halted := by decide
theorem witness_IllegalTermFaults : (Instr.add .r0 (.indexed .x0 .rev false)).wellFormed = false ∧
    (Instr.sta .r0 (.ramDirect 0x10 false)).memOperand = some (.ramDirect 0x10 false) ∧
    (Operand.ramDirect 0x10 false).fits 4 = false ∧ (Operand.ramDirect 0xF false).fits 4 = true := by decide
theorem witness_OperandLocations : XReg.x3 ≠ XReg.x0 := by decide
theorem witness_PostIncrementDecrement :
    (getIdx .x2 sample).ptr = (getIdx .x2 sample).lim ∧ (getIdx .x1 sample).ptr ≠ (getIdx .x1 sample).lim := by decide
theorem witness_BitReversedUpdate : (0 < 13 ∧ 12 < 13) ∧ XReg.x1 ≠ XReg.x0 := by decide
theorem witness_UpdateFrame : updatesIndex (.indexed .x1 .inc false) .x2 = false ∧
    (∀ k, updatesIndex (.indexed .x1 .none true) k = false) :=
  ⟨by decide, fun k => by cases k <;> decide⟩
theorem witness_MemoryReads :
    (Memory.lookup (3#13).toNat sample.rom = some ⟨5, 6⟩ ∧ isInteger sample.cfg.romInt (3#13).toNat = false) ∧
      isInteger sample.cfg.romInt (1#13).toNat = true ∧ isInteger sample.cfg.romInt (2#13).toNat = false ∧
      isInteger sample.cfg.ramInt (8#16).toNat = true ∧ isInteger sample.cfg.ramInt (9#16).toNat = false ∧
      8#16 ≠ 9#16 := by decide
theorem witness_UnwrittenReadFaults :
    readable (.indexed .x1 .inc true) { sample with bar := 1 } = true ∧
      (Instr.ldxPtr .x2 (.indexed .x1 .inc true)).storeOperand = none ∧
      updatesIndex (.indexed .x1 .inc true) .x2 = false ∧
      locate (.indexed .x1 .inc true) { sample with bar := 1 } = .ram 8 ∧
      Memory.lookup (8#16).toNat State.reset.ram = none := by decide
theorem witness_InstructionEnds :
    ¬ (sample.loop.active = true ∧ sample.pcr = sample.loop.stop) ∧
      (looping.loop.active = true ∧ looping.pcr = looping.loop.stop ∧ looping.loop.count ≠ 1) ∧
      ({ looping with loop := { looping.loop with count := 1 } } : State).loop.count = 1 := by decide
theorem witness_NopCompletes : (Operand.indexed .x0 .dec false).legal = true := by decide

/-! The hypotheses of the instructions that read an operand and write a register: each memory, each
register kind. -/

theorem witness_LogicCompletes : readable (.romDirect 3) sample = true ∧
    readLoc (locate (.romDirect 3) sample) sample = some ⟨5, 6⟩ ∧
        writeFault .r0 (some (.romDirect 3)) sample = none := by
  decide
theorem witness_ArithmeticCompletes : readable (.indexed .x0 .inc false) sample = true ∧
    readLoc (locate (.indexed .x0 .inc false) sample) sample = some ⟨5, 6⟩ ∧
    writeFault .r7 (some (.indexed .x0 .inc false)) sample = none := by decide
theorem witness_AluFlagsRule : ({ sample with psr := 0x00200000 } : State).psr.getLsbD 21 = true ∧ 0 < 30 ∧
    29 < 30 := by
  decide
theorem witness_StaticShiftsComplete : writeFault .r2 none sample = none ∧
    readable (.indexed .x1 .rev false) sample = true ∧
    readLoc (locate (.indexed .x1 .rev false) sample) sample = some ⟨0x10, 0x20⟩ ∧
    writeFault .r7 (some (.indexed .x1 .rev false)) loading = none := by decide
theorem witness_DynamicShiftCompletes : writeFault .r5 none sample = none ∧
    readable (.ramDirect 7 false) sample = true ∧
    readLoc (locate (.ramDirect 7 false) sample) sample = some ⟨0x10, 0x20⟩ ∧
    writeFault .r5 (some (.ramDirect 7 false)) sample = none ∧
    (0 ≤ (0#32).toInt ∧ (0#32).toInt ≤ 31) ∧ (0 ≤ (31#32).toInt ∧ (31#32).toInt ≤ 31) ∧
    sample.cfg.slaDyn = .suggested ∧ (-31 ≤ (0xFFFFFFE1#32).toInt ∧ (0xFFFFFFE1#32).toInt ≤ -1) ∧
    (-31 ≤ (0xFFFFFFFF#32).toInt ∧ (0xFFFFFFFF#32).toInt ≤ -1) := by decide
theorem witness_SwapCompletes : writeFault .r3 none sample = none ∧
    readable (.indexed .x3 .inc false) sample = true ∧
    readLoc (locate (.indexed .x3 .inc false) sample) sample = some ⟨4, 0⟩ ∧
    writeFault .r6 (some (.indexed .x3 .inc false)) sample = none := by decide
theorem witness_LoadsComplete : readable (.ramDirect 0x1FFF true) { sample with bar := 8 } = true ∧
    readLoc (locate (.ramDirect 0x1FFF true) { sample with bar := 8 }) sample = some ⟨0x10, 0x20⟩ ∧
    writeFault .r4 (some (.ramDirect 0x1FFF true)) { sample with bar := 8 } = none := by decide
theorem witness_StoresComplete : storable (.indexed .x3 .dec true) { sample with bar := 0xFFFF } = true ∧
    locate (.indexed .x3 .dec true) { sample with bar := 0xFFFF } = .ram 7 := by decide
theorem witness_StoreFrame : ∃ s', exec (.sta .r6 (.indexed .x1 .inc false)) sample = .next s' ∧
    (Instr.sta .r6 (.indexed .x1 .inc false)).storeOperand = some (.indexed .x1 .inc false) ∧
    locate (.indexed .x1 .inc false) sample = .ram 7 ∧ sample.run = .running ∧ s'.run = .running :=
  ⟨_, rfl, rfl, rfl, rfl, rfl⟩
theorem witness_LoadPsrCompletes : readable (.romDirect 3) sample = true ∧
    readLoc (locate (.romDirect 3) sample) sample = some ⟨5, 6⟩ ∧
    (5#32).getLsbD 20 = false ∧ (0x100000#32).getLsbD 20 = true := by decide
theorem witness_PsrImage : sample.wbbEmpty = true ∧ psrFlags.getLsbD 24 = true ∧ psrFlags.getLsbD 31 = true ∧
    (0xF3000000#32).getLsbD 31 = true := by decide
theorem witness_MacClearEffect :
    let s : State := { sample with rom := [(3, ⟨0x100005, 0⟩)] }
    readLoc (locate (.romDirect 3) s) s = some ⟨0x100005, 0⟩ ∧ readable (.romDirect 3) s = true ∧
      (0x100005#32).getLsbD 20 = true := by decide
theorem witness_TestsComplete : readable (.indexed .x2 .rev false) sample = true ∧
    readLoc (locate (.indexed .x2 .rev false) sample) sample = some ⟨0x10, 0x20⟩ := by decide
theorem witness_IndirectBranchCompletes : storable (.indexed .x1 .dec false) sample = true ∧
    readLoc (locate (.indexed .x1 .dec false) sample) sample = some ⟨0x10, 0x20⟩ := by decide
theorem witness_CycleCompletes : storable (.ramDirect 7 false) sample = true ∧
    readLoc (locate (.ramDirect 7 false) sample) sample = some ⟨0x10, 0x20⟩ ∧
    writeFault .r7 (some (.ramDirect 7 false)) sample = none := by decide

/-- `rpt` with one pass, and with 2^32 - 1; the end address 0x10 is neither 0 nor 1. -/
theorem witness_RepeatCompletes : storable (.ramDirect 7 false) sample = true ∧
    readLoc (locate (.ramDirect 7 false) sample) sample = some ⟨0x10, 0x20⟩ ∧ sample.loop.active = false ∧
    ((1 : Nat) : Int) = (readReg .r0 sample).re.toNat + biasInt sample.cfg.rptBias ∧
    (let s : State := { sample with gpr := { sample.gpr with r0 := ⟨0xFFFFFFFF, 0⟩ } }
     ((2 ^ 32 - 1 : Nat) : Int) = (readReg .r0 s).re.toNat + biasInt s.cfg.rptBias) ∧
    (0x10#32).setWidth 14 ≠ sample.pcr ∧ (0x10#32).setWidth 14 ≠ sample.pcr + 1 := by decide
theorem witness_RepeatRefusals : storable (.ramDirect 7 false) sample = true ∧
    readLoc (locate (.ramDirect 7 false) sample) sample = some ⟨0x10, 0x20⟩ ∧
    looping.loop.active = true ∧ sample.loop.active = false ∧
    ((readReg .r0 State.reset).re.toNat : Int) + biasInt State.reset.cfg.rptBias ≤ 0 ∧
    (2 : Int) ^ 32 ≤ ((0xFFFFFFFF#32).toNat : Int) + biasInt .plusOne ∧
    0 < ((readReg .r0 sample).re.toNat : Int) + biasInt sample.cfg.rptBias ∧
    (0x10#32).setWidth 14 = ({ sample with pcr := 0x10 } : State).pcr ∧
    (0x10#32).setWidth 14 = ({ sample with pcr := 0xF } : State).pcr + 1 := by decide
theorem witness_BarAndControlLoadsComplete : readable (.ramDirect 8 false) sample = true ∧
    readLoc (locate (.ramDirect 8 false) sample) sample = some ⟨4, 0⟩ := by decide
theorem witness_SendCompletes : readable (.romDirect 3) sample = true ∧
    readLoc (locate (.romDirect 3) sample) sample = some ⟨5, 6⟩ ∧ sample.run = .running ∧
    sample.pins.poutReady = true ∧ sample.pins.qoutReady = true ∧ sample.cfg.portBlocking = true ∧
    (let s : State := { sample with pins := ⟨0, 0, 0, false, false, false, false⟩ }
     s.pins.poutReady = false ∧ s.pins.qoutReady = false) := by decide
theorem witness_ReceiveCompletes : storable (.indexed .x1 .inc false) sample = true ∧
    locate (.indexed .x1 .inc false) sample = .ram 7 ∧ sample.run = .running ∧
    sample.pins.pinReady = true ∧ sample.pins.qinReady = true ∧ sample.cfg.portBlocking = true ∧
    (let s : State := { sample with pins := ⟨0, 0, 0, false, false, false, false⟩ }
     s.pins.pinReady = false ∧ s.pins.qinReady = false) := by decide
theorem witness_WaitingPortsResume :
    let s : State := { sample with run := .waiting (.recv .p0 (.ramDirect 7 false)) }
    s.cfg.portBlocking = true ∧ s.run = .waiting (.recv .p0 (.ramDirect 7 false)) ∧
      storable (.ramDirect 7 false) s = true ∧ locate (.ramDirect 7 false) s = .ram 7 ∧
          inReady .p0 s = true ∧
      inReady .p0 { s with pins := ⟨0, 0, 0, false, false, false, false⟩ } = false ∧
      ({ sample with run := .waiting (.send .p1 5) } : State).run = .waiting (.send .p1 5) ∧
      outReady .p1 sample = true ∧
      outReady .p1 { sample with pins := ⟨0, 0, 0, false, false, false, false⟩ } = false := by decide
theorem witness_WaitCompletes : readable (.romDirect 3) sample = true ∧
    readLoc (locate (.romDirect 3) sample) sample = some ⟨5, 6⟩ ∧ sample.run = .running ∧
    ({ sample with run := .waiting (.cond 5) } : State).run = .waiting (.cond 5) := by decide
theorem witness_IndexLoadsComplete : readable (.indexed .x1 .inc false) sample = true ∧
    readLoc (locate (.indexed .x1 .inc false) sample) sample = some ⟨0x10, 0x20⟩ ∧
    updatesIndex (.indexed .x1 .inc false) .x2 = false ∧ updatesIndex (.indexed .x1 .inc false) .x1 = true := by decide
theorem witness_PortWrites : sample.psr.getLsbD 10 = false ∧ loading.psr.getLsbD 10 = true := by decide
theorem witness_PortReads : sample.psr.getLsbD 17 = false ∧ sample.psr.getLsbD 18 = false ∧
    ({ sample with psr := 0x60000 } : State).psr.getLsbD 17 = true ∧
    ({ sample with psr := 0x60000 } : State).psr.getLsbD 18 = true := by decide
theorem witness_R7WriteTrigger : loading.psr.extractLsb' 11 2 = 2 ∧
    isIndexedOperand (some (.indexed .x1 .inc false)) = true ∧
    isIndexedOperand none = false ∧ sample.psr.extractLsb' 11 2 = 0 ∧ (0x800#32).extractLsb' 11 2 = 1 ∧
    (0x1800#32).extractLsb' 11 2 = 3 ∧
    sample.psr.extractLsb' 4 2 = 0 ∧ (0x10#32).extractLsb' 4 2 = 1 ∧ (0x20#32).extractLsb' 4 2 = 2 ∧
    (0x30#32).extractLsb' 4 2 = 3 ∧
    sample.psr.extractLsb' 6 2 = 0 ∧ (0x40#32).extractLsb' 6 2 = 1 ∧ (0x80#32).extractLsb' 6 2 = 2 ∧
    (0xC0#32).extractLsb' 6 2 = 3 ∧ sample.cfg.bmux1 = .r5In ∧ sample.cfg.bmux2 = .s3 ∧
    (macOut sample).s3 = none ∧ (macOut sample).satRe = none ∧
    (macOut { sample with mulw := some 6, icount := 10 }).s3 = some .zero ∧
    (macOut { sample with mulw := some 6, icount := 10 }).d3 = some .zero ∧
    (macOut { sample with mulw := some 6, icount := 10 }).satIm = some false := by decide
theorem witness_TransparentConfiguration : sample.psr.getLsbD 17 = false ∧ sample.psr.getLsbD 18 = false ∧
    sample.psr.getLsbD 10 = false ∧ sample.psr.extractLsb' 11 2 = 0 ∧ Reg.r4 ≠ Reg.r7 := by decide

/-- At the first instruction that R334 allows with a latency of 3. -/
theorem witness_ButterflyOutputs :
    let s : State := { sample with psr := 4, mulw := some 6, icount := 10 }
    (s.cfg.macComb = .suggested ∧ s.mulw = some 6 ∧ 6 + s.cfg.mulLatency + 1 ≤ s.icount ∧
      s.mac.r6in.specified = true ∧ s.mac.r7in.specified = true ∧ s.mac.a.specified = true ∧
      s.mac.b.specified = true ∧ s.psr.extractLsb' 0 4 = 4 ∧ s.psr.extractLsb' 8 2 = 0 ∧
      s.psr.extractLsb' 13 4 = 0 ∧ s.psr.getLsbD 19 = false) ∧
    (∀ w, ({ s with icount := 9 } : State).mulw = some w → 9 < w + s.cfg.mulLatency + 1) ∧
    ({ s.mac with r7in := ⟨.zero, false⟩ } : Mac).r7in.specified = false := by
  refine ⟨by decide, fun w h => ?_, rfl⟩
  cases h
  decide
theorem witness_RegisterWriteRefusals :
    writeFault .r2 (some (.romDirect 3)) looping = some .counterWrite ∧
      writeFault .r5 none { looping with psr := 0x400, loop := { looping.loop with reg := .r4 } } = some
          .counterWrite ∧
      writeFault .r7 none { looping with psr := 0x1800, loop := { looping.loop with reg := .r6 } } = some
          .counterWrite ∧
      writeFault .r7 (some (.indexed .x0 .none false)) loading = some .r6LoadCollision ∧
      (Instr.lda .r7 (.indexed .x0 .none false)).wellFormed = true ∧
      readable (.indexed .x0 .none false) loading = true ∧
      readLoc (locate (.indexed .x0 .none false) loading) loading = some ⟨5, 6⟩ := by decide

/-! The frames: instructions that give a next state. -/

theorem witness_RamChangesOnlyByStores : (∃ s', exec (.lda .r7 (.indexed .x1 .inc false)) loading = .next s') ∧
    ∃ s', exec (.stsBar (.ramDirect 7 false)) sample = .next s' ∧ locate (.ramDirect 7 false) sample ≠ .ram 8 :=
  ⟨⟨_, rfl⟩, _, rfl, by decide⟩
theorem witness_GeneralRegisterFrame : ∃ s', exec (.cyc .r2 (.ramDirect 7 false)) sample = .next s' ∧
    (Instr.cyc .r2 (.ramDirect 7 false)).dest ≠ some .r3 := ⟨_, rfl, by decide⟩
theorem witness_MacFrame : (∃ s', exec (.lda .r0 (.romDirect 3)) sample = .next s') ∧
    (∃ s', exec (.lda .r6 (.romDirect 3)) sample = .next s') ∧
        (∃ s', exec (.ldsPsr (.romDirect 3)) sample = .next s' ∧
          readLoc (locate (.romDirect 3) sample) sample = some ⟨5, 6⟩ ∧ (5#32).getLsbD 20 = false) ∧
        ∃ s', exec (.rpt .r6 (.ramDirect 7 false))
          { sample with mac := { sample.mac with r6in := ⟨⟨4, 0⟩, true⟩ } } = .next s' :=
  ⟨⟨_, rfl⟩, ⟨_, rfl⟩, ⟨_, rfl, by decide⟩, _, rfl⟩
theorem witness_IndexRegisterFrame : ∃ s', exec (.ldxInc .x2 (.indexed .x1 .inc false)) sample = .next s' ∧
    updatesIndex (.indexed .x1 .inc false) .x3 = false := ⟨_, rfl, by decide⟩
theorem witness_SpecialRegisterFrame : ∃ s', exec (.jsr 0x10) looping = .next s' := ⟨_, rfl⟩
theorem witness_PsrFrame : (∃ s', exec (.lda .r7 (.romDirect 3)) sample = .next s') ∧
    (∃ s', exec (.lda .r7 (.romDirect 3)) { sample with psr := 0x01000000 } = .next s' ∧
      (0x01000000#32).getLsbD 24 = true) ∧
    (∃ s', exec (.add .r0 (.romDirect 3)) sample = .next s') ∧
        ∃ s', exec (.ldsPsr (.romDirect 3)) sample = .next s' :=
  ⟨⟨_, rfl⟩, ⟨_, rfl, by decide⟩, ⟨_, rfl⟩, _, rfl⟩
theorem witness_CompareFlagAndRunRule :
    (∃ s', exec (.teq .r0 (.romDirect 3))
        { sample with cmpf := true, gpr := { sample.gpr with r0 := ⟨5, 6⟩ } } =
      .next s' ∧ s'.cmpf = true) ∧
    (∃ s', exec (.bra 4) sample = .next s' ∧ s'.icount ≠ sample.icount) ∧
    (∃ s', exec .brk sample = .next s' ∧ s'.icount = sample.icount ∧ sample.run = .running) ∧
    ∃ s' w, exec (.stsCom .p0 (.ramDirect 7 false))
        { sample with pins := ⟨0, 0, 0, false, true, true, true⟩ } = .next s' ∧
      s'.run = .waiting w :=
  ⟨⟨_, rfl, rfl⟩, ⟨_, rfl, by decide⟩, ⟨_, rfl, rfl, rfl⟩, _, _, rfl, rfl⟩
theorem witness_LoopAndProgramCounterRule : (∃ s', exec (.add .r0 (.romDirect 3)) looping = .next s') ∧
    ∃ s', exec .brk looping = .next s' := ⟨⟨_, rfl⟩, _, rfl⟩
theorem witness_ProgramIsFixed : ∃ s', step { sample with code := [(0, 0xCC000000)] } = .next s' := ⟨_, rfl⟩
theorem witness_StepKeepsInvariant : ({ State.reset with code := [(0, 0xCC000000)] } : State).Inv ∧
    ∃ s', step { State.reset with code := [(0, 0xCC000000)] } = .next s' :=
  ⟨⟨by decide, by decide, by decide, by decide, trivial, by decide⟩, _, rfl⟩

end Sys2Proof.Tests
end

