-- ==== Sys2Proof/Proofs/IntegerRegister.lean ====
section
/-!
PROOFS. What `sts.rsr`, `sts.bar` and `stx.ptr` store of an N-bit integer register, and what comes back of
it: `cplxOfInt` and `truncRe` for every width that fits a 32-bit word (00_scope.md R13, R14).
-/

namespace Sys2Proof.Machine

/-- Bit `i < n` of the sign-extended word is bit `i` of the register. -/
theorem truncRe_cplxOfInt {n : Nat} (hn : n ≤ 32) (v : BitVec n) : truncRe n (cplxOfInt v) = v := by
  unfold truncRe cplxOfInt
  ext i hi
  have hi32 : i < 32 := Nat.lt_of_lt_of_le hi hn
  simp [hi32, BitVec.getElem_signExtend, hi]

theorem cplxOfInt_re_toInt {n : Nat} (hn : n ≤ 32) (v : BitVec n) : (cplxOfInt v).re.toInt = v.toInt :=
  BitVec.toInt_signExtend_of_le hn

@[simp] theorem cplxOfInt_im {n : Nat} (v : BitVec n) : (cplxOfInt v).im = 0 := rfl

/-- The three parts of the round trip at once, for every width. -/
theorem cplxOfInt_roundTrip {n : Nat} (hn : n ≤ 32) (v : BitVec n) :
    truncRe n (cplxOfInt v) = v ∧ (cplxOfInt v).re.toInt = v.toInt ∧ (cplxOfInt v).im = 0 :=
  ⟨truncRe_cplxOfInt hn v, cplxOfInt_re_toInt hn v, cplxOfInt_im v⟩

/-- Settles O13: the index registers, code addresses and RAM addresses have 13, 14 and 16 bits, which fit
a 32-bit word. -/
theorem integerRegisterRoundTrip : Obligations.IntegerRegisterRoundTrip :=
  ⟨cplxOfInt_roundTrip (by decide), cplxOfInt_roundTrip (by decide), cplxOfInt_roundTrip (by decide)⟩

end Sys2Proof.Machine
end

