-- ==== Sys2Proof/Proofs/ProgramIsFixed.lean ====
section
/-!
PROOFS. The CodeROM, the DataROM and the parameters are the same after every step (10_state.md R43): each
shared shape of an instruction's meaning keeps them, so each instruction does, and so do the waits.
-/

namespace Sys2Proof.Machine

/-! ## What a step can do -/

/-- A step answers with a state exactly when a running processor executes what it fetched or a waiting one
goes on, in both cases after the environment's move (60_exceptions.md R301, R313). -/
theorem step_next_iff {s s' : State} :
    step s = .next s' ↔
      (s.run = .running ∧ ∃ i, fetch (tick s) = .ok i ∧ exec i (tick s) = .next s') ∨
        ∃ w, s.run = .waiting w ∧ resume w (tick s) = .next s' := by
  unfold step
  cases s.run with
  | halted => simp
  | waiting w => simp
  | running => cases fetch (tick s) <;> simp

/-! ## The program and the parameters -/

/-- What R43 fixes before the run is the same in `s'` as in `s`. -/
def SameProgram (s s' : State) : Prop := s'.code = s.code ∧ s'.rom = s.rom ∧ s'.cfg = s.cfg

theorem SameProgram.trans {s s' s'' : State} (h : SameProgram s s') (h' : SameProgram s' s'') :
    SameProgram s s'' := by
  obtain ⟨hcode, hrom, hcfg⟩ := h
  obtain ⟨hcode', hrom', hcfg'⟩ := h'
  exact ⟨hcode'.trans hcode, hrom'.trans hrom, hcfg'.trans hcfg⟩

theorem sameProgram_tick (s : State) : SameProgram s (tick s) := by simp [SameProgram]

theorem sameProgram_update (t : Operand) (s : State) : SameProgram s (update t s) := by simp [SameProgram]

theorem sameProgram_complete (s : State) : SameProgram s (complete s) := by simp [SameProgram]

theorem sameProgram_sendWord (p : Port) (w : W32) (s : State) : SameProgram s (sendWord p w s) := by
  obtain ⟨-, h⟩ | ⟨-, h⟩ := sendWord_cases p w s <;> simp [SameProgram, h]

theorem sameProgram_pollCond (v : W32) (s : State) : SameProgram s (pollCond v s) := by
  obtain ⟨-, h⟩ | ⟨-, h⟩ := pollCond_cases v s <;> simp [SameProgram, h]

/-! ## The shapes of the meanings -/

section Shapes
variable {s s' : State} {i : Reg} {t : Operand}

theorem sameProgram_of_onLoad {k : Cplx → State → Out}
    (h : onLoad t s k = .next s')
    (hk : ∀ v, k v (update t s) = .next s' → SameProgram (update t s) s') : SameProgram s s' := by
  obtain ⟨v, -, -, hv⟩ := onLoad_next_iff.1 h
  exact (sameProgram_update t s).trans (hk v hv)

theorem sameProgram_of_loadAndComplete {f : Cplx → State → State} (h : loadAndComplete t s f = .next s')
    (hf : ∀ v s, SameProgram s (f v s)) : SameProgram s s' := by
  obtain ⟨v, -, -, rfl⟩ := loadAndComplete_next_iff.1 h
  exact ((sameProgram_update t s).trans (hf v _)).trans (sameProgram_complete _)

theorem sameProgram_of_storeAndComplete {c : Cplx} (h : storeAndComplete t c s = .next s') :
    SameProgram s s' := by
  obtain ⟨a, -, -, rfl⟩ := storeAndComplete_next_iff.1 h
  simp [SameProgram]

theorem sameProgram_of_combineMem {f : Cplx → Cplx → Cplx} (h : combineMem f i t s = .next s') :
    SameProgram s s' := by
  obtain ⟨v, -, -, -, rfl⟩ := combineMem_next_iff.1 h
  simp [SameProgram]

theorem sameProgram_of_mapMem {f : Cplx → Cplx} (h : mapMem f i t s = .next s') : SameProgram s s' := by
  obtain ⟨v, -, -, -, rfl⟩ := mapMem_next_iff.1 h
  simp [SameProgram]

theorem sameProgram_of_mapReg {f : Cplx → Cplx} {rs : Reg} (h : mapReg f i rs s = .next s') :
    SameProgram s s' := by
  obtain ⟨-, rfl⟩ := mapReg_next_iff.1 h
  simp [SameProgram]

theorem sameProgram_of_writeAlu {p : AluPair} {u : Option Operand} (h : writeAlu i p u s = .next s') :
    SameProgram s s' := by
  obtain ⟨-, rfl⟩ := writeAlu_next_iff.1 h
  simp [SameProgram]

theorem sameProgram_of_testMem {f : Cplx → Cplx → Bool} (h : testMem f i t s = .next s') :
    SameProgram s s' := by
  obtain ⟨v, -, -, rfl⟩ := testMem_next_iff.1 h
  simp [SameProgram]

theorem sameProgram_of_loadIndex {k : XReg} {f : Index13 → Index → Index}
    (h : loadIndex k t f s = .next s') : SameProgram s s' := by
  obtain ⟨v, -, -, -, rfl⟩ := loadIndex_next_iff.1 h
  simp [SameProgram]

theorem sameProgram_of_recvWord {p : Port} (h : recvWord p t s = .next s') : SameProgram s s' := by
  obtain ⟨-, ⟨-, a, -, rfl⟩ | ⟨-, rfl⟩⟩ := recvWord_next_iff.1 h <;> simp [SameProgram]

end Shapes

/-! ## Instructions, waits and steps -/

/-- No instruction writes the CodeROM, the DataROM or a parameter: by the shape of its meaning. -/
theorem sameProgram_of_exec {i : Instr} {s s' : State} (h : exec i s = .next s') : SameProgram s s' := by
  cases i with
  | nop t => obtain ⟨-, rfl⟩ | ⟨u, -, -, rfl⟩ := execNop_next_iff.1 h <;> simp [SameProgram]
  | and | ior | xor =>
    simp only [exec, execAnd, execIor, execXor] at h
    exact sameProgram_of_combineMem h
  | add | sub | sbx | sllT =>
    simp only [exec, execAdd, execSub, execSbx, execSllT] at h
    exact sameProgram_of_onLoad h fun _ => sameProgram_of_writeAlu
  | sllR => exact sameProgram_of_writeAlu h
  | slaDynR | srlR | sraR | sirR =>
    simp only [exec, execSlaDynR, execSrlR, execSraR, execSirR] at h
    exact sameProgram_of_mapReg h
  | slaDynT | srlT | sraT | sirT | lda =>
    simp only [exec, execSlaDynT, execSrlT, execSraT, execSirT, execLda] at h
    exact sameProgram_of_mapMem h
  | ldsDsr | ldsPsr | ldsBar | addBar | ctl =>
    simp only [exec, execLdsDsr, execLdsPsr, execLdsBar, execAddBar, execCtl] at h
    exact sameProgram_of_loadAndComplete h fun v s => by simp [SameProgram]
  | sta | stsPsr | stsRsr | stsBar | stxPtr =>
    simp only [exec, execSta, execStsPsr, execStsRsr, execStsBar, execStxPtr] at h
    exact sameProgram_of_storeAndComplete h
  | teq | tne | tgr | tge | tsm | tse | tbw =>
    simp only [exec, execTeq, execTne, execTgr, execTge, execTsm, execTse, execTbw] at h
    exact sameProgram_of_testMem h
  | brt | brf | bra | jsr | brk | xfrPtr | flsWbb => cases h; simp [SameProgram]
  | bri t =>
    obtain ⟨v, -, -, hv⟩ := onLoadAddr_next_iff.1 h
    cases hv; simp [SameProgram]
  | cyc r t =>
    obtain ⟨v, -, -, hv⟩ := onLoadAddr_next_iff.1 h
    obtain ⟨-, hw⟩ := onWrite_next_iff.1 hv
    cases hw; simp [SameProgram]
  | rpt r t =>
    obtain ⟨v, -, -, -, rfl⟩ := execRpt_next_iff.1 h
    simp [SameProgram]
  | ldsCom p t =>
    exact sameProgram_of_onLoad h fun v hv => by cases hv; exact sameProgram_sendWord p v.re _
  | stsCom => exact sameProgram_of_recvWord h
  | wai t => exact sameProgram_of_onLoad h fun v hv => by cases hv; exact sameProgram_pollCond v.re _
  | ldxPtr | ldxInc | ldxBas | ldxLim =>
    simp only [exec, execLdxPtr, execLdxInc, execLdxBas, execLdxLim] at h
    exact sameProgram_of_loadIndex h

/-- Nor does a waiting instruction, whether it goes on waiting or completes. -/
theorem sameProgram_of_resume {w : Wait} {s s' : State} (h : resume w s = .next s') : SameProgram s s' := by
  cases w with
  | cond v => cases h; exact sameProgram_pollCond v s
  | send p x => cases h; exact sameProgram_sendWord p x s
  | recv p t => exact sameProgram_of_recvWord h

/-- Settles O57: the environment's move touches neither memory nor parameters, and then an instruction
executes or a wait goes on. -/
theorem programIsFixed : Obligations.ProgramIsFixed := by
  intro s s' h
  have hrest : SameProgram (tick s) s' := by
    obtain ⟨-, i, -, hi⟩ | ⟨w, -, hw⟩ := step_next_iff.1 h
    · exact sameProgram_of_exec hi
    · exact sameProgram_of_resume hw
  exact (sameProgram_tick s).trans hrest

end Sys2Proof.Machine
end

