-- ==== Sys2Proof/Proofs/MemoryReads.lean ====
section
/-!
PROOFS. What comes back of a word placed in the DataROM or written to the RAM (20_memory.md R66 to R68):
both memories hold a word in the form of its area, `inArea`, so the two regions are two cases of that form.
-/

namespace Sys2Proof.Machine

/-! ## The form of a word in each region -/

theorem inArea_of_integer {areas : List Config.Area} {a : Nat} (h : isInteger areas a = true) (c : Cplx) :
    inArea areas a c = ⟨c.re, 0⟩ := if_pos h

theorem inArea_of_complex {areas : List Config.Area} {a : Nat} (h : isInteger areas a = false) (c : Cplx) :
    inArea areas a c = c := if_neg (Bool.eq_false_iff.mp h)

/-! ## Reads of a known word -/

theorem romRead_of_lookup {a : Index13} {c : Cplx} {s : State} (h : Memory.lookup a.toNat s.rom = some c) :
    romRead a s = inArea s.cfg.romInt a.toNat c := by
  rw [romRead, h, Option.getD_some]

/-- Settles O11: a placed DataROM word and a written RAM word read in the form of their area; a write
leaves the other RAM words. -/
theorem memoryReads : Obligations.MemoryReads := by
  constructor
  · intro a c s hplaced
    rw [romRead_of_lookup hplaced]
    exact ⟨fun hcomplex => inArea_of_complex hcomplex c, fun hinteger => inArea_of_integer hinteger c⟩
  · intro a c s
    rw [ramRead_ramWrite_same]
    exact ⟨fun hcomplex => congrArg some (inArea_of_complex hcomplex c),
      fun hinteger => congrArg some (inArea_of_integer hinteger c),
      fun b hne => ramRead_ramWrite_ne hne c s⟩

end Sys2Proof.Machine
end

