-- ==== Sys2Proof/Proofs/OperandLocations.lean ====
section
/-!
PROOFS. Where `Locate` finds each operand form (40_operands_and_addressing.md R132 to R135, R138, R140).
A RAM address is a zero-extended field or pointer, or `bar` plus a signed offset, so the forms come down to
the value of these two addresses.
-/

namespace Sys2Proof.Machine

/-! ## The two addresses in RAM -/

/-- Zero extension keeps the number (D4). -/
theorem plainAddr_toNat (a : Index13) : (plainAddr a).toNat = a.toNat :=
  BitVec.toNat_setWidth_of_le (by decide)

/-- A sign-extended word is its signed value modulo the new width, also where that width is the smaller one:
so an offset field may have any width (log 3). -/
theorem signExtend_toNat {w : Nat} (n : Nat) (v : BitVec w) :
    ((v.signExtend n).toNat : Int) = v.toInt % (2 ^ n : Nat) := by
  have hnonneg : 0 ≤ v.toInt % (2 ^ n : Nat) := Int.emod_nonneg _ (by positivity)
  rw [BitVec.signExtend, BitVec.toNat_ofInt, Int.toNat_of_nonneg hnonneg]

/-- `bar` plus a signed offset of any width, modulo 2^16 (D5). -/
theorem bar_add_signExtend_toNat {w : Nat} (v : BitVec w) (s : State) :
    ((s.bar + v.signExtend 16).toNat : Int) = (s.bar.toNat + v.toInt) % 65536 :=
  calc ((s.bar + v.signExtend 16).toNat : Int)
      = (s.bar.toNat + (v.signExtend 16).toNat) % 65536 := by rw [BitVec.toNat_add]; rfl
    _ = (s.bar.toNat + v.toInt % 65536) % 65536 := by rw [signExtend_toNat]; rfl
    _ = (s.bar.toNat + v.toInt) % 65536 := Int.add_emod_emod ..

/-! ## `Locate` of each form -/

theorem locate_romDirect (a : Index13) (s : State) : locate (.romDirect a) s = .rom a := rfl

theorem locate_ramDirect_plain (a : Index13) (s : State) :
    locate (.ramDirect a false) s = .ram (plainAddr a) := rfl

theorem locate_ramDirect_biased (a : Index13) (s : State) :
    locate (.ramDirect a true) s = .ram (s.bar + (a.setWidth s.cfg.directBits).signExtend 16) := rfl

/-- `x0` points into the DataROM. -/
theorem locate_indexed_x0 (u : Upd) (biased : Bool) (s : State) :
    locate (.indexed .x0 u biased) s = .rom (getIdx .x0 s).ptr := rfl

/-- `x1` to `x3` point into the RAM. -/
theorem locate_indexed_of_ne_x0 {k : XReg} (hk : k ≠ .x0) (u : Upd) (biased : Bool) (s : State) :
    locate (.indexed k u biased) s =
      .ram (if biased then s.bar + (getIdx k s).ptr.signExtend 16 else plainAddr (getIdx k s).ptr) := by
  cases k with
  | x0 => exact absurd rfl hk
  | x1 | x2 | x3 => rfl

/-- Settles O7: each form's location, with the number of its address where it is in RAM. -/
theorem operandLocations : Obligations.OperandLocations := by
  intro s a u k
  refine ⟨locate_romDirect a s, locate_indexed_x0 u false s, ?ramPlain, ?ramBiased, ?idxPlain, ?idxBiased⟩
  case ramPlain => exact ⟨_, locate_ramDirect_plain a s, plainAddr_toNat a⟩
  case ramBiased => exact ⟨_, locate_ramDirect_biased a s, bar_add_signExtend_toNat _ s⟩
  case idxPlain => exact fun hk => ⟨_, locate_indexed_of_ne_x0 hk u false s, plainAddr_toNat _⟩
  case idxBiased => exact fun hk => ⟨_, locate_indexed_of_ne_x0 hk u true s, bar_add_signExtend_toNat _ s⟩

end Sys2Proof.Machine
end

