-- ==== Sys2Proof/Proofs/LogicCompletes.lean ====
section
/-!
PROOFS. The logic instructions (41_logic_arith.md R162 to R164): all three are `combineMem`, so what that
shape does with a readable operand and a permitted write says what each of them does.
-/

namespace Sys2Proof.Machine

/-! ## The shape: read an operand, combine it with a register, write the register -/

/-- The register is read after the operand's index update, which leaves it alone (`readReg_update`). -/
theorem combineMem_of_reads {i : Reg} {t : Operand} {s : State} {v : Cplx} (hread : readable t s = true)
    (hvalue : readLoc (locate t s) s = some v) (hwrite : writeFault i (some t) s = none)
    (f : Cplx → Cplx → Cplx) :
    combineMem f i t s = .next (complete (writeReg i (f (readReg i s) v) (some t) (update t s))) :=
  combineMem_next_iff.2 ⟨v, hread, hvalue, hwrite, rfl⟩

/-! ## The three instructions -/

theorem exec_and (i : Reg) (t : Operand) (s : State) :
    exec (.and i t) s = combineMem (fun u v => ⟨u.re &&& v.re, u.im &&& v.im⟩) i t s := rfl

theorem exec_ior (i : Reg) (t : Operand) (s : State) :
    exec (.ior i t) s = combineMem (fun u v => ⟨u.re ||| v.re, u.im ||| v.im⟩) i t s := rfl

theorem exec_xor (i : Reg) (t : Operand) (s : State) :
    exec (.xor i t) s = combineMem (fun u v => ⟨u.re ^^^ v.re, u.im ^^^ v.im⟩) i t s := rfl

/-- Settles O16: each instruction is the shape with its own bitwise operation on the components. -/
theorem logicCompletes : Obligations.LogicCompletes := by
  intro i t v s hread hvalue hwrite
  rw [exec_and, exec_ior, exec_xor]
  have completes := combineMem_of_reads hread hvalue hwrite
  exact ⟨completes _, completes _, completes _⟩

end Sys2Proof.Machine
end

section
/-!
PROOFS. The static shifts and the swap (42_shift_swap.md R185 to R192). `sll` is `writeAlu` of its two
component results; `srl`, `sra` and `sir` are one function of a complex value put into `mapReg` (register
form) or `mapMem` (location form). So what these shapes do with a permitted write says what each of them does.
-/

namespace Sys2Proof.Machine

/-! ## The shapes: compute a register from a register or an operand -/

/-- The register form (log 24). -/
theorem mapReg_of_writable {rd : Reg} {s : State} (hwrite : writeFault rd none s = none) (f : Cplx → Cplx)
    (rs : Reg) : mapReg f rd rs s = .next (complete (writeReg rd (f (readReg rs s)) none s)) :=
  mapReg_next_iff.2 ⟨hwrite, rfl⟩

/-- The location form: the operand's index update comes before the write of the register. -/
theorem mapMem_of_reads {rd : Reg} {t : Operand} {s : State} {v : Cplx} (hread : readable t s = true)
    (hvalue : readLoc (locate t s) s = some v) (hwrite : writeFault rd (some t) s = none) (f : Cplx → Cplx) :
    mapMem f rd t s = .next (complete (writeReg rd (f v) (some t) (update t s))) :=
  mapMem_next_iff.2 ⟨v, hread, hvalue, hwrite, rfl⟩

theorem writeAlu_of_writable {rd : Reg} {t : Option Operand} {s : State} (hwrite : writeFault rd t s = none)
    (p : AluPair) :
    writeAlu rd p t s = .next (complete (setAluFlags p.re.ovf p.im.ovf (writeReg rd p.value t s))) :=
  writeAlu_next_iff.2 ⟨hwrite, rfl⟩

/-! ## Shift left: a saturating result with the ALU flags -/

theorem exec_sllR (n : Count) (rd rs : Reg) (s : State) :
    exec (.sllR n rd rs) s = writeAlu rd (sllBoth s n (readReg rs s)) none s := rfl

theorem exec_sllT (n : Count) (rd : Reg) (t : Operand) (s : State) :
    exec (.sllT n rd t) s = onLoad t s fun v s' => writeAlu rd (sllBoth s' n v) (some t) s' := rfl

/-- An operand's update leaves psr b21 alone, so the shift saturates as it would before it. -/
@[simp] theorem sllBoth_update (t : Operand) (s : State) (n : Count) (c : Cplx) :
    sllBoth (update t s) n c = sllBoth s n c := by
  simp only [sllBoth, satOn_update]

theorem exec_sllT_of_reads {rd : Reg} {t : Operand} {s : State} {v : Cplx} (hread : readable t s = true)
    (hvalue : readLoc (locate t s) s = some v) (hwrite : writeFault rd (some t) s = none) (n : Count) :
    exec (.sllT n rd t) s = .next (complete (setAluFlags (sllBoth s n v).re.ovf (sllBoth s n v).im.ovf
      (writeReg rd (sllBoth s n v).value (some t) (update t s)))) := by
  have hwrite' : writeFault rd (some t) (update t s) = none := by rwa [writeFault_update]
  rw [exec_sllT, onLoad_of_reads hread hvalue, sllBoth_update, writeAlu_of_writable hwrite']

/-! ## Shift right and swap: a function of the value -/

theorem exec_srlR (n : Count) (rd rs : Reg) (s : State) :
    exec (.srlR n rd rs) s = mapReg (srlBoth n) rd rs s := rfl

theorem exec_srlT (n : Count) (rd : Reg) (t : Operand) (s : State) :
    exec (.srlT n rd t) s = mapMem (srlBoth n) rd t s := rfl

theorem exec_sraR (n : Count) (rd rs : Reg) (s : State) :
    exec (.sraR n rd rs) s = mapReg (sraBoth n) rd rs s := rfl

theorem exec_sraT (n : Count) (rd : Reg) (t : Operand) (s : State) :
    exec (.sraT n rd t) s = mapMem (sraBoth n) rd t s := rfl

theorem exec_sirR (rd rs : Reg) (s : State) : exec (.sirR rd rs) s = mapReg swapParts rd rs s := rfl

theorem exec_sirT (rd : Reg) (t : Operand) (s : State) : exec (.sirT rd t) s = mapMem swapParts rd t s := rfl

/-! ## The right shifts as numbers -/

/-- Zeros enter at bit 31: the unsigned word divided (R187). -/
theorem srl_toNat (v : W32) (n : Count) : (srl v n).toNat = v.toNat / 2 ^ countNat n := by
  rw [srl, BitVec.toNat_ushiftRight, Nat.shiftRight_eq_div_pow]

/-- The sign bit is replicated: the signed word divided, rounding toward minus infinity (R189), as `/` on
`Int` by a positive number does. -/
theorem sra_toInt (v : W32) (n : Count) : (sra v n).toInt = v.toInt / 2 ^ countNat n := by
  rw [sra, BitVec.toInt_sshiftRight, Int.shiftRight_eq_div_pow]
  norm_cast

/-! ## The obligations -/

/-- Settles O20: each instruction is its shape with the write permitted, and the right shifts divide by
2 or 4. -/
theorem staticShiftsComplete : Obligations.StaticShiftsComplete := by
  constructor
  · intro n rd rs t v s
    constructor
    case left =>
      intro hwrite
      rw [exec_sllR, exec_srlR, exec_sraR]
      exact ⟨writeAlu_of_writable hwrite _, mapReg_of_writable hwrite _ rs, mapReg_of_writable hwrite _ rs⟩
    case right =>
      intro hread hvalue hwrite
      rw [exec_srlT, exec_sraT]
      have completes := mapMem_of_reads hread hvalue hwrite
      exact ⟨exec_sllT_of_reads hread hvalue hwrite n, completes _, completes _⟩
  · intro v
    exact ⟨srl_toNat v .one, srl_toNat v .two, sra_toInt v .one, sra_toInt v .two⟩

/-- Settles O22: both forms are their shape with the parts exchanged. -/
theorem swapCompletes : Obligations.SwapCompletes := by
  intro rd rs t v s
  rw [exec_sirR, exec_sirT]
  exact ⟨fun hwrite => mapReg_of_writable hwrite swapParts rs,
    fun hread hvalue hwrite => mapMem_of_reads hread hvalue hwrite swapParts⟩

end Sys2Proof.Machine
end

section
/-!
PROOFS. The loads and stores that move one word (43_load_store_status.md R200, R201, R203; R181, R224, R241,
R262). A load is `mapMem` or `loadAndComplete`; each store is `storeAndComplete` of its own value, read from
the state before the store and before the operand's update. So what these shapes do with an operand that may
be accessed says what each of them does.
-/

namespace Sys2Proof.Machine

/-! ## The shape: load a special register -/

theorem loadAndComplete_of_reads {t : Operand} {s : State} {v : Cplx} (hread : readable t s = true)
    (hvalue : readLoc (locate t s) s = some v) (f : Cplx → State → State) :
    loadAndComplete t s f = .next (complete (f v (update t s))) :=
  loadAndComplete_next_iff.2 ⟨v, hread, hvalue, rfl⟩

/-! ## The loads -/

theorem exec_lda (i : Reg) (t : Operand) (s : State) : exec (.lda i t) s = mapMem (fun v => v) i t s := rfl

/-- The imaginary part of the operand goes nowhere (42_shift_swap.md R181). -/
theorem exec_ldsDsr (t : Operand) (s : State) :
    exec (.ldsDsr t) s = loadAndComplete t s fun v s' => { s' with dsr := v.re } := rfl

/-! ## The stores: the value that each names -/

theorem exec_sta (i : Reg) (t : Operand) (s : State) : exec (.sta i t) s = storeAndComplete t (readReg i s) s :=
  rfl

theorem exec_stsPsr (t : Operand) (s : State) :
    exec (.stsPsr t) s = storeAndComplete t ⟨psrRead s, 0⟩ s := rfl

/-- A register narrower than a word is sign-extended (D36), here as in `sts.bar` and `stx.ptr`. -/
theorem exec_stsRsr (t : Operand) (s : State) :
    exec (.stsRsr t) s = storeAndComplete t ⟨s.rsr.signExtend 32, 0⟩ s := rfl

theorem exec_stsBar (t : Operand) (s : State) :
    exec (.stsBar t) s = storeAndComplete t ⟨s.bar.signExtend 32, 0⟩ s := rfl

theorem exec_stxPtr (k : XReg) (t : Operand) (s : State) :
    exec (.stxPtr k t) s = storeAndComplete t ⟨(getIdx k s).ptr.signExtend 32, 0⟩ s := rfl

/-! ## The obligations -/

/-- Settles O23: `lda` writes the operand as it is, where the write is permitted; `lds.dsr` has no write
that could be refused. -/
theorem loadsComplete : Obligations.LoadsComplete := by
  intro i t v s hread hvalue
  rw [exec_lda, exec_ldsDsr]
  exact ⟨fun hwrite => mapMem_of_reads hread hvalue hwrite _, loadAndComplete_of_reads hread hvalue _⟩

/-- Settles O24: each store is the shape with its own value, at the word the operand locates. -/
theorem storesComplete : Obligations.StoresComplete := by
  intro i k t a s hstore hloc
  rw [exec_sta, exec_stsPsr, exec_stsRsr, exec_stsBar, exec_stxPtr]
  have completes := storeAndComplete_of_ram hstore hloc
  exact ⟨completes _, completes _, completes _, completes _, completes _⟩

end Sys2Proof.Machine
end

section
/-!
PROOFS. Tests, branches and the subroutine jump (44_test_branch.md R211 to R220, R223). The seven tests are
`testMem` of their own conditions, so what that shape does with a readable operand says what each of them does;
`brt` and `brf` are `branchIf` on the flag and on its negation, and `jsr` is a branch from a state whose `rsr`
holds the next address.
-/

namespace Sys2Proof.Machine

/-! ## The shape: read an operand, AND a condition into the flag -/

/-- The register and the flag are read after the operand's index update, which leaves both alone. -/
theorem testMem_of_reads {t : Operand} {s : State} {v : Cplx} (hread : readable t s = true)
    (hvalue : readLoc (locate t s) s = some v) (f : Cplx → Cplx → Bool) (i : Reg) :
    testMem f i t s = .next (advance { update t s with cmpf := s.cmpf && f (readReg i s) v }) := by
  have hflag : andCmpf (f (readReg i s) v) (update t s) =
      { update t s with cmpf := s.cmpf && f (readReg i s) v } := by
    rw [andCmpf, update_cmpf]
  exact testMem_next_iff.2 ⟨v, hread, hvalue, by rw [hflag]⟩

/-! ## The seven tests: the condition that each names -/

/-- The model compares complex values whole where R211 and R212 name their parts. -/
theorem cplx_eq_iff (u v : Cplx) : u = v ↔ u.re = v.re ∧ u.im = v.im := by
  cases u; cases v; rw [Cplx.mk.injEq]

theorem cplx_ne_iff (u v : Cplx) : u ≠ v ↔ u.re ≠ v.re ∨ u.im ≠ v.im := by
  rw [Ne, cplx_eq_iff, not_and_or]

theorem exec_teq (i : Reg) (t : Operand) (s : State) :
    exec (.teq i t) s = testMem (fun u v => decide (u.re = v.re ∧ u.im = v.im)) i t s := by
  simp only [← cplx_eq_iff]
  rfl

theorem exec_tne (i : Reg) (t : Operand) (s : State) :
    exec (.tne i t) s = testMem (fun u v => decide (u.re ≠ v.re ∨ u.im ≠ v.im)) i t s := by
  simp only [← cplx_ne_iff]
  rfl

theorem exec_tgr (i : Reg) (t : Operand) (s : State) :
    exec (.tgr i t) s = testMem (fun u v => decide (v.re.toInt < u.re.toInt)) i t s := rfl

theorem exec_tge (i : Reg) (t : Operand) (s : State) :
    exec (.tge i t) s = testMem (fun u v => decide (v.re.toInt ≤ u.re.toInt)) i t s := rfl

theorem exec_tsm (i : Reg) (t : Operand) (s : State) :
    exec (.tsm i t) s = testMem (fun u v => decide (u.re.toInt < v.re.toInt)) i t s := rfl

theorem exec_tse (i : Reg) (t : Operand) (s : State) :
    exec (.tse i t) s = testMem (fun u v => decide (u.re.toInt ≤ v.re.toInt)) i t s := rfl

theorem exec_tbw (i : Reg) (t : Operand) (s : State) :
    exec (.tbw i t) s = testMem (fun u v => decide (u.re &&& v.re ≠ 0 ∨ u.im &&& v.im ≠ 0)) i t s := by
  simp only [Bool.decide_or]
  rfl

/-! ## The branches -/

theorem exec_brt (j : CodeAddr) (s : State) : exec (.brt j) s = .next (branchIf s.cmpf j s) := rfl

theorem exec_brf (j : CodeAddr) (s : State) : exec (.brf j) s = .next (branchIf (!s.cmpf) j s) := rfl

theorem exec_bra (j : CodeAddr) (s : State) : exec (.bra j) s = .next (branchTo j s) := rfl

theorem branchIf_eq (c : Bool) (a : CodeAddr) (s : State) :
    branchIf c a s = if c = true then branchTo a s else complete s := rfl

theorem branchIf_not (c : Bool) (a : CodeAddr) (s : State) :
    branchIf (!c) a s = if c = true then complete s else branchTo a s := by
  cases c <;> rfl

/-! ## The subroutine jump -/

theorem exec_jsr (j : CodeAddr) (s : State) :
    exec (.jsr j) s = .next (branchTo j (setRsr (nextAddress s).1 s)) := rfl

/-- The loop-end check of a branch is made whatever its target is (R229, R230). -/
theorem branchTo_eq (a : CodeAddr) (s : State) :
    branchTo a s = { s with cmpf := true, pcr := a, loop := (nextAddress s).2, icount := s.icount + 1 } := rfl

/-! ## The obligations -/

/-- Settles O29: each test is the shape with its own condition on the register and the operand. -/
theorem testsComplete : Obligations.TestsComplete := by
  intro i t v s hread hvalue
  rw [exec_teq, exec_tne, exec_tgr, exec_tge, exec_tsm, exec_tse, exec_tbw]
  have completes := fun f => testMem_of_reads hread hvalue f i
  exact ⟨completes _, completes _, completes _, completes _, completes _, completes _, completes _⟩

/-- Settles O30: the flag decides `brt` as it is and `brf` negated; `bra` does not ask for it. -/
theorem branchesComplete : Obligations.BranchesComplete := by
  intro j s
  rw [exec_brt, exec_brf, exec_bra, branchIf_eq, branchIf_not]
  exact ⟨rfl, rfl, rfl⟩

/-- Settles O33: `rsr` is written before the branch and is no part of the loop-end check, so the check is that
of the state before (`nextAddress_setRsr`). -/
theorem jumpToSubroutineCompletes : Obligations.JumpToSubroutineCompletes := by
  intro j s
  rw [exec_jsr, branchTo_eq, nextAddress_setRsr]
  rfl

end Sys2Proof.Machine
end

section
/-!
PROOFS. Access to the Butterfly/MAC unit: reads of r4 to r7 through the output multiplexers, writes of r0 to r6,
and `MacClear` (47_butterfly_mac.md R274 to R277, R285). `lds.psr` with b20 of the written value set is `MacClear`
after the control bits, and the clear action and the control bits touch different bits of psr.
-/

namespace Sys2Proof.Machine

/-! ## The output multiplexers: `fOut45` is psr b17, `fOut67` is psr b18 -/

section Reads
variable {s : State}

theorem readReg_r4_r5_of_latches (h : fOut45 s.psr = false) :
    readReg .r4 s = s.mac.r4in.value ∧ readReg .r5 s = s.mac.r5in.value := by
  simp [readReg, h]

theorem readReg_r4_r5_of_internal (h : fOut45 s.psr = true) :
    readReg .r4 s = s.mac.q.value ∧ readReg .r5 s = s.mac.r.value := by
  simp [readReg, h]

theorem readReg_r6_r7_of_latches (h : fOut67 s.psr = false) :
    readReg .r6 s = s.mac.r6in.value ∧ readReg .r7 s = s.mac.r7in.value := by
  simp [readReg, h]

theorem readReg_r6_of_multiplier {v : Cplx} (h : fOut67 s.psr = true) (hout : (macOut s).mulOut6 = some v) :
    readReg .r6 s = v := by
  simp [readReg, h, hout]

theorem readReg_r7_of_multiplier {v : Cplx} (h : fOut67 s.psr = true) (hout : (macOut s).mulOut7 = some v) :
    readReg .r7 s = v := by
  simp [readReg, h, hout]

/-- One half times one half, at the first instruction at which R334 lets the product be used, with psr b18
set: `r6` and `r7` read one quarter. -/
theorem readReg_r6_r7_oneQuarter :
    let s : State := { State.reset with
      mac := { State.reset.mac with r6in := ⟨⟨0x40000000, 0⟩, true⟩, r7in := ⟨⟨0x40000000, 0⟩, true⟩ }
      psr := 0x40000, mulw := some 6, icount := 10 }
    readReg .r6 s = ⟨0x20000000, 0⟩ ∧ readReg .r7 s = ⟨0x20000000, 0⟩ :=
  ⟨readReg_r6_of_multiplier (by decide) (by decide), readReg_r7_of_multiplier (by decide) (by decide)⟩

end Reads

/-! ## The automatic load of r4: `fR5to4` is psr b10 -/

theorem writeReg_r5_of_off {s : State} (h : fR5to4 s.psr = false) (c : Cplx) (t : Option Operand) :
    writeReg .r5 c t s = { s with mac := { s.mac with r5in := ⟨c, true⟩ } } := by
  simp [writeReg, h]

theorem writeReg_r5_of_on {s : State} (h : fR5to4 s.psr = true) (c : Cplx) (t : Option Operand) :
    writeReg .r5 c t s = { s with mac := { s.mac with r5in := ⟨c, true⟩, r4in := ⟨c, true⟩ } } := by
  simp [writeReg, h]

/-! ## The psr image -/

theorem getLsbD_psrRead (s : State) (n : Nat) :
    (psrRead s).getLsbD n =
      ((s.psr.getLsbD n && (psrControl.getLsbD n || (psrFlags.getLsbD n && s.flagsWritten.getLsbD n))) ||
        (s.wbbEmpty && psrWbb.getLsbD n) ||
        ((Config.freePsrImage s.icount).getLsbD n && (psrOpen s).getLsbD n)) := by
  cases h : s.wbbEmpty <;> simp [psrRead, h]

/-- The image is open at the drawn bits, at the flags nothing has written, and at b23 while a store may be
pending (log 14). -/
theorem getLsbD_psrOpen (s : State) (n : Nat) :
    (psrOpen s).getLsbD n =
      (psrDrawn.getLsbD n || (psrFlags.getLsbD n && !s.flagsWritten.getLsbD n) ||
        (!s.wbbEmpty && psrWbb.getLsbD n)) := by
  have hunwritten : (psrFlags &&& ~~~s.flagsWritten).getLsbD n =
      (psrFlags.getLsbD n && !s.flagsWritten.getLsbD n) := by
    cases hflag : psrFlags.getLsbD n
    · simp [hflag]
    · simp [hflag, BitVec.lt_of_getLsbD hflag]
  rw [psrOpen, BitVec.getLsbD_or, BitVec.getLsbD_or, hunwritten]
  cases s.wbbEmpty <;> simp

/-- b20 belongs to no part of the image (10_state.md R36, D13). -/
theorem getLsbD_psrRead_clearBit (s : State) : (psrRead s).getLsbD 20 = false := by
  have hmasks : psrControl.getLsbD 20 = false ∧ psrFlags.getLsbD 20 = false ∧ psrDrawn.getLsbD 20 = false ∧
      psrWbb.getLsbD 20 = false := by decide
  obtain ⟨hcontrol, hflags, hdrawn, hwbb⟩ := hmasks
  simp only [getLsbD_psrRead, getLsbD_psrOpen, hcontrol, hflags, hdrawn, hwbb, Bool.false_and, Bool.and_false,
    Bool.or_false]

/-- The flags are no control bits, no drawn ones, and not b23. -/
theorem other_masks_of_psrFlags {n : Nat} (h : psrFlags.getLsbD n = true) :
    psrControl.getLsbD n = false ∧ psrDrawn.getLsbD n = false ∧ psrWbb.getLsbD n = false := by
  have disjoint : ∀ n, n < 32 → psrFlags.getLsbD n = true →
      psrControl.getLsbD n = false ∧ psrDrawn.getLsbD n = false ∧ psrWbb.getLsbD n = false := by decide
  exact disjoint n (BitVec.lt_of_getLsbD h) h

/-- A flag that something has written reads as it is (10_state.md R35). -/
theorem getLsbD_psrRead_of_written {s : State} {n : Nat} (hflag : psrFlags.getLsbD n = true)
    (hwritten : s.flagsWritten.getLsbD n = true) : (psrRead s).getLsbD n = s.psr.getLsbD n := by
  obtain ⟨hcontrol, hdrawn, hwbb⟩ := other_masks_of_psrFlags hflag
  simp [getLsbD_psrRead, getLsbD_psrOpen, hcontrol, hdrawn, hwbb, hflag, hwritten]

/-! ## `MacClear` -/

/-- The internal registers are cleared, which specifies them (log 38); the latches stay. -/
theorem macClear_mac (s : State) :
    (macClear s).mac = { s.mac with a := .zero, b := .zero, q := .zero, r := .zero, lreg := .zero } := rfl

theorem macClear_flagsWritten (s : State) : (macClear s).flagsWritten = s.flagsWritten ||| 0x33000000#32 := rfl

/-- The numbers of the four accumulation flags (10_state.md R33). -/
def IsAccumulationFlag (n : Nat) : Prop := n = 24 ∨ n = 25 ∨ n = 28 ∨ n = 29

theorem getLsbD_psr_macClear_flag {n : Nat} (hn : IsAccumulationFlag n) (s : State) :
    (macClear s).psr.getLsbD n = false := by
  rw [getLsbD_psr_macClear]
  rcases hn with rfl | rfl | rfl | rfl <;> simp

theorem getLsbD_psr_macClear_of_ne {n : Nat} (h24 : n ≠ 24) (h25 : n ≠ 25) (h28 : n ≠ 28) (h29 : n ≠ 29)
    (s : State) : (macClear s).psr.getLsbD n = s.psr.getLsbD n := by
  simp [getLsbD_psr_macClear, h24, h25, h28, h29]

/-- A flag that `MacClear` clears counts as written, so the image shows the 0. -/
theorem getLsbD_psrRead_macClear {n : Nat} (hn : IsAccumulationFlag n) (s : State) :
    (psrRead (macClear s)).getLsbD n = false := by
  have hmasks : psrFlags.getLsbD n = true ∧ (0x33000000#32).getLsbD n = true := by
    rcases hn with rfl | rfl | rfl | rfl <;> decide
  obtain ⟨hflag, hclear⟩ := hmasks
  have hwritten : (macClear s).flagsWritten.getLsbD n = true := by
    rw [macClear_flagsWritten, BitVec.getLsbD_or, hclear, Bool.or_true]
  rw [getLsbD_psrRead_of_written hflag hwritten, getLsbD_psr_macClear_flag hn]

/-! ## `lds.psr` with the clear action -/

theorem exec_ldsPsr (t : Operand) (s : State) :
    exec (.ldsPsr t) s = loadAndComplete t s fun v s' => writePsr v.re s' := rfl

theorem getLsbD_psr_writePsr_control {n : Nat} (hn : n < 20 ∨ n = 21) (w : W32) (s : State) :
    (writePsr w s).psr.getLsbD n = w.getLsbD n := by
  rw [getLsbD_psr_writePsr, if_pos hn]

section Clear
variable {w : W32} (hclear : w.getLsbD 20 = true)
include hclear

theorem writePsr_mac_of_clear (s : State) : (writePsr w s).mac = (macClear s).mac := by
  rw [writePsr_mac, if_pos hclear]

theorem writePsr_flagsWritten_of_clear (s : State) :
    (writePsr w s).flagsWritten = (macClear s).flagsWritten := by
  rw [writePsr_flagsWritten, if_pos hclear]

theorem getLsbD_psr_writePsr_flag_of_clear {n : Nat} (hn : IsAccumulationFlag n) (s : State) :
    (writePsr w s).psr.getLsbD n = false := by
  rw [getLsbD_psr_writePsr, hclear]
  rcases hn with rfl | rfl | rfl | rfl <;> simp

end Clear

/-! ## The obligations -/

/-- Settles O44: each pair of registers has its multiplexer, on psr b17 or b18. -/
theorem portReads : Obligations.PortReads := fun _ =>
  ⟨readReg_r4_r5_of_latches, readReg_r4_r5_of_internal, readReg_r6_r7_of_latches,
    fun h => ⟨fun _ => readReg_r6_of_multiplier h, fun _ => readReg_r7_of_multiplier h⟩⟩

/-- Settles O43: all but r5 are the model's equations; r5 splits on psr b10. -/
theorem portWrites : Obligations.PortWrites := fun c t _ =>
  ⟨rfl, rfl, rfl, rfl, rfl, fun hoff => writeReg_r5_of_off hoff c t, fun hon => writeReg_r5_of_on hon c t, rfl⟩

/-- Settles O28: `MacClear` field by field and bit by bit; `lds.psr` ends in the same unit and the same record
of written flags, because the operand's update and the common end touch neither. -/
theorem macClearEffect : Obligations.MacClearEffect := by
  intro s
  refine ⟨macClear_mac s, fun n hn => getLsbD_psr_macClear_flag hn s,
    fun n h24 h25 h28 h29 => getLsbD_psr_macClear_of_ne h24 h25 h28 h29 s, macClear_flagsWritten s,
    fun n hn => getLsbD_psrRead_macClear hn s, rfl, getLsbD_psrRead_clearBit s, ?_⟩
  intro t v hread hvalue hclear
  refine ⟨complete (writePsr v.re (update t s)), ?_, ?_, ?_, fun n hn => ?_, fun n hn => ?_⟩
  · rw [exec_ldsPsr, loadAndComplete_of_reads hread hvalue]
  · rw [complete_mac, writePsr_mac_of_clear hclear, macClear_mac, macClear_mac, update_mac]
  · rw [complete_flagsWritten, writePsr_flagsWritten_of_clear hclear, macClear_flagsWritten,
      macClear_flagsWritten, update_flagsWritten]
  · rw [complete_psr, getLsbD_psr_writePsr_flag_of_clear hclear hn]
  · rw [complete_psr, getLsbD_psr_writePsr_control hn]

end Sys2Proof.Machine
end

section
/-!
PROOFS. Decode and encode are inverse to each other on legal terms and legal words (30_encoding.md R113). Each
row shape of the table answers exactly on the fields that the encoder gives its legal terms: one direction of
that, over all rows, is one round trip, and the other direction the other.
-/

namespace Sys2Proof

/-! ## The fields of a word, told apart by the opcode's row number `n` -/

/-- `ra` is the bits of the register it decodes to. -/
theorem regOf_eq_iff {v : BitVec 3} {r : Reg} : regOf v = r ↔ v = regBits r :=
  ⟨fun h => by rw [← h, regBits_regOf], fun h => by rw [h, regOf_regBits]⟩

theorem Fields.eq_iff (f g : Fields) :
    f = g ↔ f.op = g.op ∧ f.ra = g.ra ∧ f.sh = g.sh ∧ f.am = g.am ∧ f.arg = g.arg := by
  cases f; cases g; simp only [Fields.mk.injEq]

section Rows
variable {f : Fields} {i : Instr} {n : Nat} (hop : f.op.toNat = n)
include hop

theorem ofNat_eq_op : BitVec.ofNat 6 n = f.op := by
  rw [← hop, BitVec.ofNat_toNat, BitVec.setWidth_eq]

theorem fieldsT_eq_iff {ra : BitVec 3} {sh : BitVec 2} {t : Operand} :
    fieldsT (BitVec.ofNat 6 n) ra sh t = f ↔
      f.ra = ra ∧ f.sh = sh ∧ f.am = operandAm t ∧ f.arg = operandArg t := by
  simp only [fieldsT, Fields.eq_iff, ofNat_eq_op hop, true_and, eq_comm]

theorem fieldsR_eq_iff {ra : BitVec 3} {sh : BitVec 2} {s : Reg} :
    fieldsR (BitVec.ofNat 6 n) ra sh s = f ↔
      f.ra = ra ∧ f.sh = sh ∧ f.am = 1 ∧ f.arg = (0#15 ++ regBits s : BitVec 18) := by
  simp only [fieldsR, Fields.eq_iff, ofNat_eq_op hop, true_and, eq_comm]

theorem fieldsJ_eq_iff {j : CodeAddr} :
    fieldsJ (BitVec.ofNat 6 n) j = f ↔
      f.ra = 0 ∧ f.sh = 0 ∧ f.am = 5 ∧ f.arg = (0#4 ++ j : BitVec 18) := by
  simp only [fieldsJ, Fields.eq_iff, ofNat_eq_op hop, true_and, eq_comm]

theorem fieldsBare_eq_iff :
    fieldsBare (BitVec.ofNat 6 n) = f ↔ f.ra = 0 ∧ f.sh = 0 ∧ f.am = 0 ∧ f.arg = 0 := by
  simp only [fieldsBare, Fields.eq_iff, ofNat_eq_op hop, true_and, eq_comm]

/-! ## The row shapes -/

theorem rowBare_ok_iff {j : Instr} : rowBare f j = .ok i ↔ fieldsBare (BitVec.ofNat 6 n) = f ∧ j = i := by
  simp only [rowBare, bind_ok, noRa_ok_iff, noSh_ok_iff, noOperand_ok_iff, fieldsBare_eq_iff hop,
    Except.ok.injEq]
  grind

/-- `nop`: without an operand, or with an indexed one (41_logic_arith.md R161). -/
theorem rowNop_ok_iff :
    rowNop f = .ok i ↔ (fieldsBare (BitVec.ofNat 6 n) = f ∧ .nop none = i) ∨
      ∃ t, nopLegal (some t) = true ∧ fieldsT (BitVec.ofNat 6 n) 0 0 t = f ∧ .nop (some t) = i := by
  have hclass (t : Operand) : operandAm t = 4 ↔ t.isIndexed = true := by
    cases t <;> simp [operandAm, Operand.isIndexed]
  simp only [rowNop, bind_ok, noRa_ok_iff, noSh_ok_iff, fieldsBare_eq_iff hop, fieldsT_eq_iff hop, nopLegal,
    Bool.and_eq_true, ← hclass]
  split
  · simp only [bind_ok, noOperand_ok_iff, Except.ok.injEq]
    grind
  · simp only [bind_ok, require_ok_iff, beq_iff_eq, readOperand_ok_iff, Except.ok.injEq]
    grind

theorem rowRT_ok_iff {mk : Reg → Operand → Instr} :
    rowRT f mk = .ok i ↔
      ∃ r t, t.legal = true ∧ fieldsT (BitVec.ofNat 6 n) (regBits r) 0 t = f ∧ mk r t = i := by
  simp only [rowRT, bind_ok, noSh_ok_iff, readOperand_ok_iff, fieldsT_eq_iff hop, ← regOf_eq_iff,
    Except.ok.injEq]
  grind

theorem rowRS_ok_iff {mk : Reg → Operand → Instr} :
    rowRS f mk = .ok i ↔
      ∃ r t, t.ramForm = true ∧ fieldsT (BitVec.ofNat 6 n) (regBits r) 0 t = f ∧ mk r t = i := by
  simp only [rowRS, bind_ok, noSh_ok_iff, ramOperand_ok_iff, fieldsT_eq_iff hop, ← regOf_eq_iff,
    Except.ok.injEq]
  grind

theorem rowT_ok_iff {mk : Operand → Instr} :
    rowT f mk = .ok i ↔
      ∃ t, t.legal = true ∧ fieldsT (BitVec.ofNat 6 n) 0 0 t = f ∧ mk t = i := by
  simp only [rowT, bind_ok, noRa_ok_iff, noSh_ok_iff, readOperand_ok_iff, fieldsT_eq_iff hop,
    Except.ok.injEq]
  grind

theorem rowS_ok_iff {mk : Operand → Instr} :
    rowS f mk = .ok i ↔
      ∃ t, t.ramForm = true ∧ fieldsT (BitVec.ofNat 6 n) 0 0 t = f ∧ mk t = i := by
  simp only [rowS, bind_ok, noRa_ok_iff, noSh_ok_iff, ramOperand_ok_iff, fieldsT_eq_iff hop, Except.ok.injEq]
  grind

theorem rowRR_ok_iff {mk : Reg → Reg → Instr} :
    rowRR f mk = .ok i ↔
      ∃ rd rs, fieldsR (BitVec.ofNat 6 n) (regBits rd) 0 rs = f ∧ mk rd rs = i := by
  simp only [rowRR, bind_ok, noSh_ok_iff, regOperand_ok_iff, fieldsR_eq_iff hop, ← regOf_eq_iff,
    Except.ok.injEq]
  grind

theorem rowRRn_ok_iff {mk : Count → Reg → Reg → Instr} :
    rowRRn f mk = .ok i ↔
      ∃ c rd rs, fieldsR (BitVec.ofNat 6 n) (regBits rd) (countBits c) rs = f ∧ mk c rd rs = i := by
  simp only [rowRRn, bind_ok, countOf_ok_iff, regOperand_ok_iff, fieldsR_eq_iff hop, ← regOf_eq_iff,
    Except.ok.injEq]
  grind

theorem rowRTn_ok_iff {mk : Count → Reg → Operand → Instr} :
    rowRTn f mk = .ok i ↔
      ∃ c rd t, t.legal = true ∧ fieldsT (BitVec.ofNat 6 n) (regBits rd) (countBits c) t = f ∧ mk c rd t = i := by
  simp only [rowRTn, bind_ok, countOf_ok_iff, readOperand_ok_iff, fieldsT_eq_iff hop, ← regOf_eq_iff,
    Except.ok.injEq]
  grind

theorem rowJ_ok_iff {mk : CodeAddr → Instr} :
    rowJ f mk = .ok i ↔
      ∃ j, fieldsJ (BitVec.ofNat 6 n) j = f ∧ mk j = i := by
  simp only [rowJ, bind_ok, noRa_ok_iff, noSh_ok_iff, jumpOperand_ok_iff, fieldsJ_eq_iff hop,
    Except.ok.injEq]
  grind

theorem rowPT_ok_iff {mk : Port → Operand → Instr} :
    rowPT f mk = .ok i ↔
      ∃ p t, t.legal = true ∧ fieldsT (BitVec.ofNat 6 n) (raPort p) 0 t = f ∧ mk p t = i := by
  simp only [rowPT, bind_ok, portField_ok_iff, noSh_ok_iff, readOperand_ok_iff, fieldsT_eq_iff hop,
    Except.ok.injEq]
  grind

theorem rowPS_ok_iff {mk : Port → Operand → Instr} :
    rowPS f mk = .ok i ↔
      ∃ p t, t.ramForm = true ∧ fieldsT (BitVec.ofNat 6 n) (raPort p) 0 t = f ∧ mk p t = i := by
  simp only [rowPS, bind_ok, portField_ok_iff, noSh_ok_iff, ramOperand_ok_iff, fieldsT_eq_iff hop,
    Except.ok.injEq]
  grind

theorem rowXR_ok_iff {mk : XReg → Reg → Instr} :
    rowXR f mk = .ok i ↔
      ∃ x s, fieldsR (BitVec.ofNat 6 n) (raX x) 0 s = f ∧ mk x s = i := by
  simp only [rowXR, bind_ok, xField_ok_iff, noSh_ok_iff, regOperand_ok_iff, fieldsR_eq_iff hop,
    Except.ok.injEq]
  grind

theorem rowXT_ok_iff {mk : XReg → Operand → Instr} :
    rowXT f mk = .ok i ↔
      ∃ x t, t.legal = true ∧ fieldsT (BitVec.ofNat 6 n) (raX x) 0 t = f ∧ mk x t = i := by
  simp only [rowXT, bind_ok, xField_ok_iff, noSh_ok_iff, readOperand_ok_iff, fieldsT_eq_iff hop,
    Except.ok.injEq]
  grind

theorem rowXS_ok_iff {mk : XReg → Operand → Instr} :
    rowXS f mk = .ok i ↔
      ∃ x t, t.ramForm = true ∧ fieldsT (BitVec.ofNat 6 n) (raX x) 0 t = f ∧ mk x t = i := by
  simp only [rowXS, bind_ok, xField_ok_iff, noSh_ok_iff, ramOperand_ok_iff, fieldsT_eq_iff hop,
    Except.ok.injEq]
  grind

end Rows

/-! ## The decoder -/

/-- What decodes is legal, and its encoding is the word: the row its opcode names answers only so (alternative
`h_k` of `decodeFields` is row `k - 1`). -/
theorem encodeFields_of_decodeFields {f : Fields} {i : Instr} (h : decodeFields f = .ok i) :
    i.wellFormed = true ∧ encodeFields i = f := by
  unfold decodeFields at h
  split at h
  case h_1 hop =>
    obtain ⟨rfl, rfl⟩ | ⟨t, ht, rfl, rfl⟩ := (rowNop_ok_iff hop).1 h
    · exact ⟨rfl, rfl⟩
    · exact ⟨ht, rfl⟩
  case h_2 hop | h_3 hop | h_4 hop | h_5 hop | h_6 hop | h_7 hop | h_10 hop | h_18 hop | h_19 hop | h_23 hop
  | h_24 hop | h_25 hop | h_26 hop | h_27 hop | h_28 hop | h_29 hop =>
    obtain ⟨r, t, ht, rfl, rfl⟩ := (rowRT_ok_iff hop).1 h
    exact ⟨ht, rfl⟩
  case h_8 hop | h_21 hop | h_38 hop | h_40 hop | h_43 hop | h_45 hop =>
    obtain ⟨t, ht, rfl, rfl⟩ := (rowT_ok_iff hop).1 h
    exact ⟨ht, rfl⟩
  case h_9 hop | h_17 hop =>
    obtain ⟨rd, rs, rfl, rfl⟩ := (rowRR_ok_iff hop).1 h
    exact ⟨rfl, rfl⟩
  case h_11 hop | h_13 hop | h_15 hop =>
    obtain ⟨c, rd, rs, rfl, rfl⟩ := (rowRRn_ok_iff hop).1 h
    exact ⟨rfl, rfl⟩
  case h_12 hop | h_14 hop | h_16 hop =>
    obtain ⟨c, rd, t, ht, rfl, rfl⟩ := (rowRTn_ok_iff hop).1 h
    exact ⟨ht, rfl⟩
  case h_20 hop | h_34 hop | h_35 hop =>
    obtain ⟨r, t, ht, rfl, rfl⟩ := (rowRS_ok_iff hop).1 h
    exact ⟨ht, rfl⟩
  case h_22 hop | h_33 hop | h_37 hop | h_39 hop =>
    obtain ⟨t, ht, rfl, rfl⟩ := (rowS_ok_iff hop).1 h
    exact ⟨ht, rfl⟩
  case h_30 hop | h_31 hop | h_32 hop | h_36 hop =>
    obtain ⟨j, rfl, rfl⟩ := (rowJ_ok_iff hop).1 h
    exact ⟨rfl, rfl⟩
  case h_41 hop =>
    obtain ⟨p, t, ht, rfl, rfl⟩ := (rowPT_ok_iff hop).1 h
    exact ⟨ht, rfl⟩
  case h_42 hop =>
    obtain ⟨p, t, ht, rfl, rfl⟩ := (rowPS_ok_iff hop).1 h
    exact ⟨ht, rfl⟩
  case h_44 hop | h_52 hop =>
    obtain ⟨rfl, rfl⟩ := (rowBare_ok_iff hop).1 h
    exact ⟨rfl, rfl⟩
  case h_46 hop =>
    obtain ⟨x, s, rfl, rfl⟩ := (rowXR_ok_iff hop).1 h
    exact ⟨rfl, rfl⟩
  case h_47 hop | h_49 hop | h_50 hop | h_51 hop =>
    obtain ⟨x, t, ht, rfl, rfl⟩ := (rowXT_ok_iff hop).1 h
    exact ⟨ht, rfl⟩
  case h_48 hop =>
    obtain ⟨x, t, ht, rfl, rfl⟩ := (rowXS_ok_iff hop).1 h
    exact ⟨ht, rfl⟩
  case h_53 => cases h

/-- The row that a legal term's opcode names answers that term. -/
theorem decodeFields_encodeFields {i : Instr} (h : i.wellFormed = true) :
    decodeFields (encodeFields i) = .ok i := by
  cases i with
  | nop t =>
    cases t with
    | none => exact (rowNop_ok_iff rfl).2 (.inl ⟨rfl, rfl⟩)
    | some t => exact (rowNop_ok_iff rfl).2 (.inr ⟨t, h, rfl, rfl⟩)
  | and r t | ior r t | xor r t | add r t | sub r t | sbx r t | slaDynT r t | sirT r t | lda r t | teq r t
  | tne r t | tgr r t | tge r t | tsm r t | tse r t | tbw r t =>
    exact (rowRT_ok_iff rfl).2 ⟨r, t, h, rfl, rfl⟩
  | ldsDsr t | ldsPsr t | ldsBar t | addBar t | ctl t | wai t =>
    exact (rowT_ok_iff rfl).2 ⟨t, h, rfl, rfl⟩
  | slaDynR rd rs | sirR rd rs =>
    exact (rowRR_ok_iff rfl).2 ⟨rd, rs, rfl, rfl⟩
  | sllR c rd rs | srlR c rd rs | sraR c rd rs =>
    exact (rowRRn_ok_iff rfl).2 ⟨c, rd, rs, rfl, rfl⟩
  | sllT c rd t | srlT c rd t | sraT c rd t =>
    exact (rowRTn_ok_iff rfl).2 ⟨c, rd, t, h, rfl, rfl⟩
  | sta r t | cyc r t | rpt r t =>
    exact (rowRS_ok_iff rfl).2 ⟨r, t, h, rfl, rfl⟩
  | stsPsr t | bri t | stsRsr t | stsBar t =>
    exact (rowS_ok_iff rfl).2 ⟨t, h, rfl, rfl⟩
  | brt j | brf j | bra j | jsr j =>
    exact (rowJ_ok_iff rfl).2 ⟨j, rfl, rfl⟩
  | ldsCom p t =>
    exact (rowPT_ok_iff rfl).2 ⟨p, t, h, rfl, rfl⟩
  | stsCom p t =>
    exact (rowPS_ok_iff rfl).2 ⟨p, t, h, rfl, rfl⟩
  | brk | flsWbb => exact (rowBare_ok_iff rfl).2 ⟨rfl, rfl⟩
  | xfrPtr x s =>
    exact (rowXR_ok_iff rfl).2 ⟨x, s, rfl, rfl⟩
  | ldxPtr x t | ldxInc x t | ldxBas x t | ldxLim x t =>
    exact (rowXT_ok_iff rfl).2 ⟨x, t, h, rfl, rfl⟩
  | stxPtr x t =>
    exact (rowXS_ok_iff rfl).2 ⟨x, t, h, rfl, rfl⟩

/-! ## The obligations -/

/-- Settles O2: the fields of the encoded word are the encoder's, so its row decodes it. -/
theorem decodeOfEncode : Obligations.DecodeOfEncode := by
  intro i h
  rw [decode, encode, Fields.ofWord_toWord]
  exact decodeFields_encodeFields h

/-- Settles O3: the row that decoded the word's fields answers only what encodes to these fields. -/
theorem encodeOfDecode : Obligations.EncodeOfDecode := by
  intro w i h
  obtain ⟨hlegal, hfields⟩ := encodeFields_of_decodeFields h
  exact ⟨hlegal, by rw [encode, hfields, Fields.toWord_ofWord]⟩

/-- Settles O1: each word's fields select its row. -/
theorem sampleWordsDecode : Obligations.SampleWordsDecode := by
  unfold Obligations.SampleWordsDecode
  decide

end Sys2Proof
end


section
/-!
PROOFS. What each instruction means, in terms of the shared shapes: one equation per instruction, for those that
the sections above do not have yet.
-/

namespace Sys2Proof.Machine

theorem exec_nop (t : Option Operand) (s : State) : exec (.nop t) s = execNop t s := rfl

theorem exec_add (i : Reg) (t : Operand) (s : State) :
    exec (.add i t) s = onLoad t s fun v s' => writeAlu i
      ⟨aluAdd (satOn s') (readReg i s').re v.re, aluAdd (satOn s') (readReg i s').im v.im⟩ (some t) s' := rfl

theorem exec_sub (i : Reg) (t : Operand) (s : State) :
    exec (.sub i t) s = onLoad t s fun v s' => writeAlu i
      ⟨aluSub (satOn s') (readReg i s').re v.re, aluSub (satOn s') (readReg i s').im v.im⟩ (some t) s' := rfl

theorem exec_sbx (i : Reg) (t : Operand) (s : State) :
    exec (.sbx i t) s = onLoad t s fun v s' => writeAlu i
      ⟨aluSub (satOn s') v.re (readReg i s').re, aluSub (satOn s') v.im (readReg i s').im⟩ (some t) s' := rfl

theorem exec_slaDynR (rd rs : Reg) (s : State) :
    exec (.slaDynR rd rs) s = mapReg (slaDynBoth s) rd rs s := rfl

theorem exec_slaDynT (rd : Reg) (t : Operand) (s : State) :
    exec (.slaDynT rd t) s = mapMem (slaDynBoth s) rd t s := rfl

theorem exec_bri (t : Operand) (s : State) :
    exec (.bri t) s = onLoadAddr t s fun a s' => .next (branchTo a s') := rfl

theorem exec_cyc (i : Reg) (t : Operand) (s : State) :
    exec (.cyc i t) s = onLoadAddr t s fun a s' => onWrite i (decBoth (readReg i s')) (some t) s' fun s'' =>
      .next (branchIf (decide ((decBoth (readReg i s')).re ≠ 0)) a s'') := rfl

theorem exec_rpt (i : Reg) (t : Operand) (s : State) : exec (.rpt i t) s = execRpt i t s := rfl

theorem exec_ldsBar (t : Operand) (s : State) :
    exec (.ldsBar t) s = loadAndComplete t s fun v s' => setBar (truncRe 16 v) s' := rfl

theorem exec_addBar (t : Operand) (s : State) :
    exec (.addBar t) s = loadAndComplete t s fun v s' => setBar (s'.bar + truncRe 16 v) s' := rfl

theorem exec_ctl (t : Operand) (s : State) :
    exec (.ctl t) s = loadAndComplete t s fun v s' => ctlOut (v.re.toNat % 2 ^ s'.cfg.kWidth) s' := rfl

theorem exec_ldsCom (p : Port) (t : Operand) (s : State) :
    exec (.ldsCom p t) s = onLoad t s fun v s' => .next (sendWord p v.re s') := rfl

theorem exec_stsCom (p : Port) (t : Operand) (s : State) : exec (.stsCom p t) s = recvWord p t s := rfl

theorem exec_wai (t : Operand) (s : State) :
    exec (.wai t) s = onLoad t s fun v s' => .next (pollCond v.re s') := rfl

theorem exec_brk (s : State) : exec .brk s = .next (setRun .halted s) := rfl

theorem exec_flsWbb (s : State) : exec .flsWbb s = .next (complete (emptyWbb s)) := rfl

theorem exec_xfrPtr (k : XReg) (r : Reg) (s : State) :
    exec (.xfrPtr k r) s =
      .next (complete (setIdx k { getIdx k s with ptr := truncRe 13 (readReg r s) } s)) := rfl

theorem exec_ldxPtr (k : XReg) (t : Operand) (s : State) :
    exec (.ldxPtr k t) s = loadIndex k t (fun v x => { x with ptr := v }) s := rfl

theorem exec_ldxInc (k : XReg) (t : Operand) (s : State) :
    exec (.ldxInc k t) s = loadIndex k t (fun v x => { x with inc := v }) s := rfl

theorem exec_ldxBas (k : XReg) (t : Operand) (s : State) :
    exec (.ldxBas k t) s = loadIndex k t (fun v x => { x with bas := v }) s := rfl

theorem exec_ldxLim (k : XReg) (t : Operand) (s : State) :
    exec (.ldxLim k t) s = loadIndex k t (fun v x => { x with lim := v }) s := rfl

end Sys2Proof.Machine
end

section
/-!
PROOFS. Everything that an executed instruction can do, said once: the state after it is one of a few terms over
the named updates of the state (30_encoding.md R104; 40_operands_and_addressing.md R145). Every statement about
all instructions is a case split on it.
-/

namespace Sys2Proof.Machine

/-- The outcomes of an instruction in state `s`. Instructions whose outcomes are one term share a constructor;
the operand's value, and what was computed from it, is any value where no statement asks for it. -/
inductive Effect (s : State) : Instr → State → Prop
  | nop : Effect s (.nop none) (complete s)
  | nopUpdate (t : Operand) : Effect s (.nop (some t)) (complete (update t s))
  | write {i : Instr} {r : Reg} (c : Cplx) : i.dest = some r → i.isAlu = false →
      writeFault r none s = none → Effect s i (complete (writeReg r c none s))
  | loadWrite {i : Instr} {r : Reg} {t : Operand} (c : Cplx) : i.dest = some r → i.isAlu = false →
      i.memOperand = some t → writeFault r (some t) s = none →
      Effect s i (complete (writeReg r c (some t) (update t s)))
  | alu {i : Instr} {r : Reg} (c : Cplx) (re im : Bool) : i.dest = some r → i.isAlu = true →
      writeFault r none s = none → Effect s i (complete (setAluFlags re im (writeReg r c none s)))
  | loadAlu {i : Instr} {r : Reg} {t : Operand} (c : Cplx) (re im : Bool) : i.dest = some r → i.isAlu = true →
      i.memOperand = some t → writeFault r (some t) s = none →
      Effect s i (complete (setAluFlags re im (writeReg r c (some t) (update t s))))
  | test {i : Instr} {t : Operand} (c : Bool) : i.isTest = true → i.memOperand = some t →
      Effect s i (advance (andCmpf c (update t s)))
  | branch {i : Instr} (c : Bool) (j : CodeAddr) : i = .brt j ∨ i = .brf j ∨ i = .bra j →
      Effect s i (branchIf c j s)
  | bri (t : Operand) (a : CodeAddr) : Effect s (.bri t) (branchTo a (update t s))
  | cyc (r : Reg) (t : Operand) (c : Cplx) (taken : Bool) (a : CodeAddr) : writeFault r (some t) s = none →
      Effect s (.cyc r t) (branchIf taken a (writeReg r c (some t) (update t s)))
  | rpt (r : Reg) (t : Operand) (e : CodeAddr) : rptFault r e (update t s) = none →
      Effect s (.rpt r t) (complete (setLoop (rptLoop r e (update t s)) (forgetReg r (update t s))))
  | jsr (j : CodeAddr) : Effect s (.jsr j) (branchTo j (setRsr (nextAddress s).1 s))
  | store {i : Instr} {t : Operand} {a : RamAddr} (c : Cplx) : i.storeOperand = some t →
      i.memOperand = some t → locate t s = .ram a → Effect s i (complete (update t (ramWrite a c s)))
  | recv (p : Port) (t : Operand) {a : RamAddr} : locate t s = .ram a →
      Effect s (.stsCom p t) (complete (update t (ramWrite a ⟨portIn p s, 0⟩
        (setRun .running (emit (.inp p (portIn p s)) s)))))
  | recvWait (p : Port) (t : Operand) : storable t s = true →
      Effect s (.stsCom p t) (setRun (.waiting (.recv p t)) s)
  | ldsDsr (t : Operand) (w : W32) : Effect s (.ldsDsr t) (complete (setDsr w (update t s)))
  | ldsPsr (t : Operand) (v : Cplx) : readLoc (locate t s) s = some v →
      Effect s (.ldsPsr t) (complete (writePsr v.re (update t s)))
  | ldsBar (t : Operand) (a : RamAddr) : Effect s (.ldsBar t) (complete (setBar a (update t s)))
  | addBar (t : Operand) (a : RamAddr) : Effect s (.addBar t) (complete (setBar a (update t s)))
  | ctl (t : Operand) (n : Nat) :
      Effect s (.ctl t) (complete (ctlOut (n % 2 ^ s.cfg.kWidth) (update t s)))
  | send (p : Port) (t : Operand) (w : W32) :
      Effect s (.ldsCom p t) (complete (setRun .running (portOut p w (update t s))))
  | sendWait (p : Port) (t : Operand) (w : W32) :
      Effect s (.ldsCom p t) (setRun (.waiting (.send p w)) (update t s))
  | poll (t : Operand) (n : Nat) :
      Effect s (.wai t) (complete (setRun .running (emit (.kin n) (update t s))))
  | pollWait (t : Operand) (n : Nat) (v : W32) :
      Effect s (.wai t) (setRun (.waiting (.cond v)) (emit (.kin n) (update t s)))
  | brk : Effect s .brk (setRun .halted s)
  | flsWbb : Effect s .flsWbb (complete (emptyWbb s))
  | xfrPtr (k : XReg) (r : Reg) (w : Index13) :
      Effect s (.xfrPtr k r) (complete (setIdx k { getIdx k s with ptr := w } s))
  | ldxPtr (k : XReg) (t : Operand) (w : Index13) :
      Effect s (.ldxPtr k t) (complete (setIdx k { getIdx k s with ptr := w } (update t s)))
  | ldxInc (k : XReg) (t : Operand) (w : Index13) :
      Effect s (.ldxInc k t) (complete (setIdx k { getIdx k s with inc := w } (update t s)))
  | ldxBas (k : XReg) (t : Operand) (w : Index13) :
      Effect s (.ldxBas k t) (complete (setIdx k { getIdx k s with bas := w } (update t s)))
  | ldxLim (k : XReg) (t : Operand) (w : Index13) :
      Effect s (.ldxLim k t) (complete (setIdx k { getIdx k s with lim := w } (update t s)))

/-- An instruction that answers a state has one of its outcomes. -/
theorem effect_of_exec {i : Instr} {s s' : State} (h : exec i s = .next s') : Effect s i s' := by
  cases i with
  | nop t =>
    rw [exec_nop] at h
    obtain ⟨rfl, rfl⟩ | ⟨u, rfl, -, rfl⟩ := execNop_next_iff.1 h
    · exact .nop
    · exact .nopUpdate u
  | and | ior | xor =>
    simp only [exec_and, exec_ior, exec_xor] at h
    obtain ⟨v, -, -, hw, rfl⟩ := combineMem_next_iff.1 h
    exact .loadWrite _ rfl rfl rfl hw
  | add | sub | sbx | sllT =>
    simp only [exec_add, exec_sub, exec_sbx, exec_sllT] at h
    obtain ⟨v, -, -, hv⟩ := onLoad_next_iff.1 h
    obtain ⟨hw, rfl⟩ := writeAlu_next_iff.1 hv
    exact .loadAlu _ _ _ rfl rfl rfl (by rwa [writeFault_update] at hw)
  | sllR =>
    rw [exec_sllR] at h
    obtain ⟨hw, rfl⟩ := writeAlu_next_iff.1 h
    exact .alu _ _ _ rfl rfl hw
  | slaDynR | srlR | sraR | sirR =>
    simp only [exec_slaDynR, exec_srlR, exec_sraR, exec_sirR] at h
    obtain ⟨hw, rfl⟩ := mapReg_next_iff.1 h
    exact .write _ rfl rfl hw
  | slaDynT | srlT | sraT | sirT | lda =>
    simp only [exec_slaDynT, exec_srlT, exec_sraT, exec_sirT, exec_lda] at h
    obtain ⟨v, -, -, hw, rfl⟩ := mapMem_next_iff.1 h
    exact .loadWrite _ rfl rfl rfl hw
  | ldsDsr t =>
    rw [exec_ldsDsr] at h
    obtain ⟨v, -, -, rfl⟩ := loadAndComplete_next_iff.1 h
    exact .ldsDsr t v.re
  | ldsPsr t =>
    rw [exec_ldsPsr] at h
    obtain ⟨v, -, hv, rfl⟩ := loadAndComplete_next_iff.1 h
    exact .ldsPsr t v hv
  | ldsBar t =>
    rw [exec_ldsBar] at h
    obtain ⟨v, -, -, rfl⟩ := loadAndComplete_next_iff.1 h
    exact .ldsBar t _
  | addBar t =>
    rw [exec_addBar] at h
    obtain ⟨v, -, -, rfl⟩ := loadAndComplete_next_iff.1 h
    exact .addBar t _
  | ctl t =>
    rw [exec_ctl] at h
    obtain ⟨v, -, -, rfl⟩ := loadAndComplete_next_iff.1 h
    rw [update_cfg]
    exact .ctl t v.re.toNat
  | sta | stsPsr | stsRsr | stsBar | stxPtr =>
    simp only [exec_sta, exec_stsPsr, exec_stsRsr, exec_stsBar, exec_stxPtr] at h
    obtain ⟨a, -, ha, rfl⟩ := storeAndComplete_next_iff.1 h
    exact .store _ rfl rfl ha
  | teq | tne | tgr | tge | tsm | tse | tbw =>
    simp only [exec_teq, exec_tne, exec_tgr, exec_tge, exec_tsm, exec_tse, exec_tbw] at h
    obtain ⟨v, -, -, rfl⟩ := testMem_next_iff.1 h
    exact .test _ rfl rfl
  | brt j => cases h; exact .branch _ j (.inl rfl)
  | brf j => cases h; exact .branch _ j (.inr (.inl rfl))
  | bra j => cases h; exact .branch true j (.inr (.inr rfl))
  | bri t =>
    rw [exec_bri] at h
    obtain ⟨v, -, -, hv⟩ := onLoadAddr_next_iff.1 h
    cases hv; exact .bri t _
  | cyc r t =>
    rw [exec_cyc] at h
    obtain ⟨v, -, -, hv⟩ := onLoadAddr_next_iff.1 h
    obtain ⟨hw, hs⟩ := onWrite_next_iff.1 hv
    cases hs; exact .cyc r t _ _ _ (by rwa [writeFault_update] at hw)
  | rpt r t =>
    rw [exec_rpt] at h
    obtain ⟨v, -, -, hf, rfl⟩ := execRpt_next_iff.1 h
    exact .rpt r t _ hf
  | jsr j => cases h; exact .jsr j
  | ldsCom p t =>
    rw [exec_ldsCom] at h
    obtain ⟨v, -, -, hv⟩ := onLoad_next_iff.1 h
    cases hv
    obtain ⟨-, hs⟩ | ⟨-, hs⟩ := sendWord_cases p v.re (update t s) <;> rw [hs]
    · exact .send p t v.re
    · exact .sendWait p t v.re
  | stsCom p t =>
    rw [exec_stsCom] at h
    obtain ⟨hst, ⟨-, a, ha, rfl⟩ | ⟨-, rfl⟩⟩ := recvWord_next_iff.1 h
    · exact .recv p t ha
    · exact .recvWait p t hst
  | wai t =>
    rw [exec_wai] at h
    obtain ⟨v, -, -, hv⟩ := onLoad_next_iff.1 h
    cases hv
    obtain ⟨-, hs⟩ | ⟨-, hs⟩ := pollCond_cases v.re (update t s) <;> rw [hs]
    · exact .poll t _
    · exact .pollWait t _ v.re
  | brk => cases h; exact .brk
  | flsWbb => cases h; exact .flsWbb
  | xfrPtr k r => cases h; exact .xfrPtr k r _
  | ldxPtr k t =>
    rw [exec_ldxPtr] at h
    obtain ⟨v, -, -, -, rfl⟩ := loadIndex_next_iff.1 h
    exact .ldxPtr k t _
  | ldxInc k t =>
    rw [exec_ldxInc] at h
    obtain ⟨v, -, -, -, rfl⟩ := loadIndex_next_iff.1 h
    exact .ldxInc k t _
  | ldxBas k t =>
    rw [exec_ldxBas] at h
    obtain ⟨v, -, -, -, rfl⟩ := loadIndex_next_iff.1 h
    exact .ldxBas k t _
  | ldxLim k t =>
    rw [exec_ldxLim] at h
    obtain ⟨v, -, -, -, rfl⟩ := loadIndex_next_iff.1 h
    exact .ldxLim k t _

end Sys2Proof.Machine
end


section
/-!
PROOFS. The invariant at reset and along every step (10_state.md section 8, 20_memory.md section 1, 44_test_branch.md
R229, 70_reset_and_hazards.md R334). Inside an instruction R334's record may name the executing instruction itself,
so the operations keep the invariant up to a bound on that record; the completion, which counts the instruction,
brings the record into the past again.
-/

namespace Sys2Proof.Machine

/-! ## psr bit by bit -/

theorem and_not_eq_zero_iff {w m : W32} :
    w &&& ~~~m = 0 ↔ ∀ n, w.getLsbD n = true → m.getLsbD n = true := by
  constructor
  · intro h n hw
    have hbit := congrArg (fun v => BitVec.getLsbD v n) h
    simpa [BitVec.lt_of_getLsbD hw, hw] using hbit
  · intro h
    refine BitVec.eq_of_getLsbD_eq fun n hn => ?_
    cases hw : w.getLsbD n
    · simp [hw]
    · simp [h n hw]

/-- The bits that psr may store are the control bits and the written flags; only flags are ever written. -/
theorem psrStored_iff {s : State} :
    s.psrStored ↔ ∀ n,
      (s.psr.getLsbD n = true → psrControl.getLsbD n = true ∨
        psrFlags.getLsbD n = true ∧ s.flagsWritten.getLsbD n = true) ∧
      (s.flagsWritten.getLsbD n = true → psrFlags.getLsbD n = true) := by
  simp only [State.psrStored, and_not_eq_zero_iff, BitVec.getLsbD_or, BitVec.getLsbD_and, Bool.or_eq_true,
    Bool.and_eq_true, forall_and]

/-- The two ALU flags are flags. -/
theorem aluFlag_getLsbD (n : Nat) : (0xC0000000#32).getLsbD n = (decide (n = 30) || decide (n = 31)) := by
  by_cases h : n < 32
  · revert n; decide
  · rw [BitVec.getLsbD_of_ge _ _ (by omega)]; simp; omega

theorem accFlag_getLsbD (n : Nat) : (0x33000000#32).getLsbD n =
    (decide (n = 24) || decide (n = 25) || decide (n = 28) || decide (n = 29)) := by
  by_cases h : n < 32
  · revert n; decide
  · rw [BitVec.getLsbD_of_ge _ _ (by omega)]; simp; omega

theorem getLsbD_psrFlags (n : Nat) : psrFlags.getLsbD n =
    (decide (n = 24) || decide (n = 25) || decide (n = 28) || decide (n = 29) || decide (n = 30) ||
      decide (n = 31)) := by
  by_cases h : n < 32
  · revert n; decide
  · rw [BitVec.getLsbD_of_ge _ _ (by omega)]; simp; omega

theorem psrStored_setAluFlags {s : State} (h : s.psrStored) (re im : Bool) :
    (setAluFlags re im s).psrStored := by
  rw [psrStored_iff] at h ⊢
  intro n
  obtain ⟨hpsr, hwritten⟩ := h n
  have hrecord : (setAluFlags re im s).flagsWritten = s.flagsWritten ||| 0xC0000000#32 := rfl
  rw [hrecord, getLsbD_psr_setAluFlags, BitVec.getLsbD_or, aluFlag_getLsbD]
  by_cases h30 : n = 30
  · subst h30; exact ⟨fun _ => .inr ⟨by decide, by simp⟩, fun _ => by decide⟩
  by_cases h31 : n = 31
  · subst h31; exact ⟨fun _ => .inr ⟨by decide, by simp⟩, fun _ => by decide⟩
  · simpa [h30, h31] using ⟨hpsr, hwritten⟩

theorem psrStored_writePsr {s : State} (h : s.psrStored) (w : W32) : (writePsr w s).psrStored := by
  rw [psrStored_iff] at h ⊢
  intro n
  obtain ⟨hpsr, hwritten⟩ := h n
  have hrecord : (writePsr w s).flagsWritten.getLsbD n =
      (s.flagsWritten.getLsbD n || (w.getLsbD 20 && (0x33000000#32).getLsbD n)) := by
    rw [writePsr_flagsWritten]
    cases w.getLsbD 20 <;> simp [macClear_flagsWritten]
  have hclear : (0x33000000#32).getLsbD n = true → psrFlags.getLsbD n = true := by
    rw [accFlag_getLsbD, getLsbD_psrFlags]; simp +contextual
  rw [hrecord, getLsbD_psr_writePsr]
  constructor
  · split
    · rename_i hcontrol
      exact fun _ => .inl (by rw [getLsbD_psrControl]; simpa using hcontrol)
    · simp only [Bool.and_eq_true, Bool.or_eq_true]
      exact fun hbit => (hpsr hbit.1).imp_right fun hflag => ⟨hflag.1, .inl hflag.2⟩
  · simp only [Bool.and_eq_true, Bool.or_eq_true]
    exact fun hbit => hbit.elim hwritten fun hacc => hclear hacc.2

/-- Only the flags that accumulate have a condition that can be met. -/
theorem psrFlags_of_accCond {o : MacOut} {n : Nat} (h : accCond o n = some true) :
    psrFlags.getLsbD n = true := by
  rw [getLsbD_psrFlags]
  unfold accCond at h
  grind

theorem psrStored_writeReg {s : State} (h : s.psrStored) (i : Reg) (c : Cplx) (t : Option Operand) :
    (writeReg i c t s).psrStored := by
  by_cases h7 : i = .r7
  · subst h7
    rw [psrStored_iff] at h ⊢
    intro n
    obtain ⟨hpsr, hwritten⟩ := h n
    show ((writeR7 c t s).psr.getLsbD n = true → _ ∨ _ ∧ (writeR7 c t s).flagsWritten.getLsbD n = true) ∧
      ((writeR7 c t s).flagsWritten.getLsbD n = true → _)
    rw [writeR7_psr, writeR7_flagsWritten, getLsbD_accumulate, getLsbD_accumulate]
    rcases hcond : accCond (macOut s) n with _ | b
    · simp
    cases b with
    | false => simpa using ⟨hpsr, hwritten⟩
    | true => simp [psrFlags_of_accCond hcond]
  · obtain ⟨hpsr, hwritten, -⟩ := writeReg_psr_of_ne h7 c t s
    simpa [State.psrStored, hpsr, hwritten] using h

/-! ## The hardware loop -/

/-- A loop that goes on after its end has a pass left, since the count was not 1 (R229). -/
theorem loopCounts_nextAddress {s : State} (h : s.loopCounts) :
    (nextAddress s).2.active = true → (nextAddress s).2.count ≠ 0 := by
  unfold nextAddress
  split
  · split
    · simp
    · rename_i hcount
      exact fun _ => hcount
  · exact h

/-- A loop that `rpt` starts has between 1 and 2^32 - 1 passes (R225, R231 (b)). -/
theorem rptLoop_count_ne_zero {i : Reg} {e : CodeAddr} {s : State} (h : rptFault i e s = none) :
    (rptLoop i e s).count ≠ 0 := by
  have hpasses : 0 < rptPasses i s ∧ rptPasses i s < 2 ^ 32 := by
    unfold rptFault at h
    split at h
    · cases h
    · split at h
      · cases h
      · rename_i hcount
        omega
  intro hzero
  have hnat := congrArg BitVec.toNat hzero
  rw [rptLoop, BitVec.toNat_ofInt] at hnat
  simp only [BitVec.ofNat_eq_ofNat, BitVec.toNat_ofNat] at hnat
  omega

/-! ## The invariant up to a bound on R334's record -/

/-- The invariant, where the last change of a multiplier input is an instruction before number `n`. -/
structure InvBefore (n : Nat) (s : State) : Prop where
  memories : s.memoriesCanonical
  psr : s.psrStored
  loop : s.loopCounts
  multiplier : ∀ w ∈ s.mulw, w < n
  waiting : s.waitLegal
  kout : s.koutFits

theorem inv_iff_invBefore {s : State} : s.Inv ↔ InvBefore s.icount s :=
  ⟨fun ⟨hm, hp, hl, hw, hr, hk⟩ => ⟨hm, hp, hl, hw, hr, hk⟩, fun ⟨hm, hp, hl, hw, hr, hk⟩ => ⟨hm, hp, hl, hw, hr, hk⟩⟩

theorem InvBefore.mono {m n : Nat} {s : State} (h : InvBefore m s) (hle : m ≤ n) : InvBefore n s :=
  { h with multiplier := fun w hw => (h.multiplier w hw).trans_le hle }

/-- A waiting `sts.com` waits with a storable operand, said of the two fields it depends on. -/
theorem waitLegal_iff {s : State} :
    s.waitLegal ↔ ∀ p t, s.run = .waiting (.recv p t) → storable t s = true := by
  unfold State.waitLegal
  split
  · rename_i p t hrun; simp [hrun]
  · rename_i hrun; exact iff_of_true trivial fun p t hr => (hrun p t hr).elim

/-- Everything of a state that the invariant speaks of, the number of the instruction apart. -/
def invPart (s : State) :=
  (s.cfg, s.ram, s.rom, s.code, s.psr, s.flagsWritten, s.loop, s.mulw, s.run, s.ports.kout)

theorem InvBefore.congr {n : Nat} {s s' : State} (h : InvBefore n s) (hpart : invPart s' = invPart s) :
    InvBefore n s' := by
  simp only [invPart, Prod.mk.injEq] at hpart
  obtain ⟨hcfg, hram, hrom, hcode, hpsr, hwritten, hloop, hmulw, hrun, hkout⟩ := hpart
  have hwait := waitLegal_iff.1 h.waiting
  constructor
  case memories => simpa [State.memoriesCanonical, hcfg, hram, hrom, hcode] using h.memories
  case psr => simpa [State.psrStored, hpsr, hwritten] using h.psr
  case loop => simpa [State.loopCounts, hloop] using h.loop
  case multiplier => simpa [hmulw] using h.multiplier
  case waiting => exact waitLegal_iff.2 fun p t hr => by rw [storable_congr hcfg]; exact hwait p t (hrun ▸ hr)
  case kout => simpa [State.koutFits, hkout, hcfg] using h.kout

/-! ## The operations -/

section Operations
variable {n : Nat} {s : State} (h : InvBefore n s)
include h

theorem InvBefore.after_update (t : Operand) : InvBefore n (update t s) := h.congr (by simp [invPart])

theorem InvBefore.after_setIdx (k : XReg) (x : Index) : InvBefore n (setIdx k x s) := h.congr (by simp [invPart])

theorem InvBefore.after_emit (e : Event) : InvBefore n (emit e s) := h.congr rfl

theorem InvBefore.after_tick : InvBefore n (tick s) := h.congr (by simp [invPart])

theorem InvBefore.after_portOut (p : Port) (w : W32) : InvBefore n (portOut p w s) :=
  h.congr (by cases p <;> rfl)

theorem InvBefore.after_ramWrite (a : RamAddr) (c : Cplx) : InvBefore n (ramWrite a c s) :=
  { h with memories := ⟨ramWrite_wf a c s h.memories.1, h.memories.2⟩ }

theorem InvBefore.after_setAluFlags (re im : Bool) : InvBefore n (setAluFlags re im s) :=
  { h with psr := psrStored_setAluFlags h.psr re im }

theorem InvBefore.after_ctlOut (w : Nat) : InvBefore n (ctlOut (w % 2 ^ s.cfg.kWidth) s) :=
  { h with kout := Nat.mod_lt _ (by positivity) }

theorem InvBefore.after_setLoop {l : Loop} (hl : l.count ≠ 0) : InvBefore n (setLoop l s) :=
  { h with loop := fun _ => hl }

theorem InvBefore.after_setRun {r : Run} (hr : ∀ p t, r = .waiting (.recv p t) → storable t s = true) :
    InvBefore n (setRun r s) :=
  { h with waiting := waitLegal_iff.2 hr }

/-- R334's record may name the executing instruction where the bound lies behind it. -/
theorem InvBefore.after_record (hn : s.icount < n) {m : Option Nat} (hm : m = s.mulw ∨ m = some s.icount) :
    InvBefore n { s with mulw := m } := by
  obtain rfl | rfl := hm
  · exact h
  · exact { h with multiplier := by simpa using hn }

theorem InvBefore.after_writeReg (hn : s.icount < n) (i : Reg) (c : Cplx) (t : Option Operand) :
    InvBefore n (writeReg i c t s) := by
  have hrest : InvBefore n { writeReg i c t s with psr := s.psr, flagsWritten := s.flagsWritten } :=
    (h.after_record hn (writeReg_mulw i c t s)).congr (by simp [invPart])
  exact { hrest with psr := psrStored_writeReg h.psr i c t }

theorem InvBefore.after_writePsr (hn : s.icount < n) (w : W32) : InvBefore n (writePsr w s) := by
  have hrest : InvBefore n { writePsr w s with psr := s.psr, flagsWritten := s.flagsWritten } :=
    (h.after_record hn (.inr (writePsr_mulw w s))).congr (by simp [invPart])
  exact { hrest with psr := psrStored_writePsr h.psr w }

theorem InvBefore.after_forgetReg (hn : s.icount < n) (i : Reg) : InvBefore n (forgetReg i s) :=
  (h.after_record hn (forgetReg_mulw i s)).congr (by simp [invPart])

/-- The completion counts the instruction, so a record of it lies in the past. -/
theorem inv_finishAt (hn : n = s.icount + 1) (a : CodeAddr) : (finishAt a s).Inv :=
  inv_iff_invBefore.2 { hn ▸ h with loop := loopCounts_nextAddress h.loop }

theorem inv_complete (hn : n = s.icount + 1) : (complete s).Inv :=
  inv_finishAt (s := setCmpf s) (h.congr rfl) hn _

theorem inv_branchTo (hn : n = s.icount + 1) (a : CodeAddr) : (branchTo a s).Inv :=
  inv_finishAt (s := setCmpf s) (h.congr rfl) hn a

theorem inv_branchIf (hn : n = s.icount + 1) (c : Bool) (a : CodeAddr) : (branchIf c a s).Inv := by
  cases c
  · exact inv_complete h hn
  · exact inv_branchTo h hn a

end Operations

/-! ## Instructions, waits and steps -/

/-- Every outcome of an instruction: its operations up to the instruction's own number, then its end. An
instruction that waits records nothing. -/
theorem inv_of_effect {i : Instr} {s s' : State} (he : Effect s i s') (hinv : s.Inv) : s'.Inv := by
  have hnow : InvBefore s.icount s := inv_iff_invBefore.1 hinv
  have h : InvBefore (s.icount + 1) s := hnow.mono (Nat.le_succ _)
  have hupd (t : Operand) : InvBefore (s.icount + 1) (update t s) := h.after_update t
  cases he with
  | nop => exact inv_complete h rfl
  | nopUpdate t => exact inv_complete (hupd t) (by simp)
  | write c => exact inv_complete (h.after_writeReg (by simp) _ c none) (by simp)
  | loadWrite c => exact inv_complete ((hupd _).after_writeReg (by simp) _ c _) (by simp)
  | alu c re im => exact inv_complete ((h.after_writeReg (by simp) _ c none).after_setAluFlags re im) (by simp)
  | loadAlu c re im =>
    exact inv_complete (((hupd _).after_writeReg (by simp) _ c _).after_setAluFlags re im) (by simp)
  | test c => exact inv_finishAt (s := andCmpf c _) ((hupd _).congr rfl) (by simp) _
  | branch c j => exact inv_branchIf h rfl c j
  | bri t a => exact inv_branchTo (hupd t) (by simp) a
  | cyc r t c taken a => exact inv_branchIf ((hupd t).after_writeReg (by simp) r c _) (by simp) taken a
  | rpt r t e hfault =>
    have hforget := (hupd t).after_forgetReg (by simp) r
    exact inv_complete (hforget.after_setLoop (rptLoop_count_ne_zero hfault)) (by simp)
  | jsr j => exact inv_branchTo (s := setRsr (nextAddress s).1 s) (h.congr rfl) rfl j
  | store c => exact inv_complete ((h.after_ramWrite _ c).after_update _) (by simp)
  | recv p t =>
    have hrun := (h.after_emit (.inp p (portIn p s))).after_setRun (r := .running) nofun
    exact inv_complete ((hrun.after_ramWrite _ _).after_update t) (by simp)
  | recvWait p t hst =>
    exact inv_iff_invBefore.2 (hnow.after_setRun fun _ _ hwait => by cases hwait; exact hst)
  | ldsDsr t w => exact inv_complete (s := setDsr w _) ((hupd t).congr rfl) (by simp)
  | ldsPsr t v => exact inv_complete ((hupd t).after_writePsr (by simp) v.re) (by simp)
  | ldsBar t a => exact inv_complete (s := setBar a _) ((hupd t).congr rfl) (by simp)
  | addBar t a => exact inv_complete (s := setBar a _) ((hupd t).congr rfl) (by simp)
  | ctl t n => exact inv_complete (by simpa using (hupd t).after_ctlOut n) (by simp)
  | send p t w =>
    exact inv_complete (((hupd t).after_portOut p w).after_setRun (r := .running) nofun) (by simp)
  | sendWait p t w =>
    exact inv_iff_invBefore.2 (by simpa using (hnow.after_update t).after_setRun (r := .waiting (.send p w)) nofun)
  | poll t n => exact inv_complete (((hupd t).after_emit (.kin n)).after_setRun (r := .running) nofun) (by simp)
  | pollWait t n v =>
    exact inv_iff_invBefore.2
      (by simpa using ((hnow.after_update t).after_emit (.kin n)).after_setRun (r := .waiting (.cond v)) nofun)
  | brk => exact inv_iff_invBefore.2 (hnow.after_setRun (r := .halted) nofun)
  | flsWbb => exact inv_complete (s := emptyWbb s) (h.congr rfl) rfl
  | xfrPtr k => exact inv_complete (h.after_setIdx k _) (by simp)
  | ldxPtr k t | ldxInc k t | ldxBas k t | ldxLim k t => exact inv_complete ((hupd t).after_setIdx k _) (by simp)

/-- A waiting instruction goes on as the instruction did that began the wait (R42). -/
theorem inv_of_resume {w : Wait} {s s' : State} (hr : resume w s = .next s') (hinv : s.Inv) : s'.Inv := by
  have hnow : InvBefore s.icount s := inv_iff_invBefore.1 hinv
  have h : InvBefore (s.icount + 1) s := hnow.mono (Nat.le_succ _)
  cases w with
  | cond v =>
    cases hr
    obtain ⟨-, hs⟩ | ⟨-, hs⟩ := pollCond_cases v s <;> rw [hs]
    · exact inv_complete ((h.after_emit _).after_setRun (r := .running) nofun) rfl
    · exact inv_iff_invBefore.2 ((hnow.after_emit _).after_setRun (r := .waiting (.cond v)) nofun)
  | send p x =>
    cases hr
    obtain ⟨-, hs⟩ | ⟨-, hs⟩ := sendWord_cases p x s <;> rw [hs]
    · exact inv_complete ((h.after_portOut p x).after_setRun (r := .running) nofun) (by simp)
    · exact inv_iff_invBefore.2 (hnow.after_setRun (r := .waiting (.send p x)) nofun)
  | recv p t => exact inv_of_effect (i := .stsCom p t) (effect_of_exec hr) hinv

/-! ## The obligations -/

/-- Settles O59: the environment's move changes nothing the invariant speaks of, and then an instruction executes
or a wait goes on. -/
theorem stepKeepsInvariant : Obligations.StepKeepsInvariant := by
  intro s s' hinv hstep
  have htick : (tick s).Inv :=
    inv_iff_invBefore.2 (by simpa using (inv_iff_invBefore.1 hinv).after_tick)
  obtain ⟨-, i, -, hi⟩ | ⟨w, -, hw⟩ := step_next_iff.1 hstep
  · exact inv_of_effect (effect_of_exec hi) htick
  · exact inv_of_resume hw htick

/-- Settles O58: the memories are empty, nothing is stored in psr, and `kout` is 0. -/
theorem invariantAtReset : Obligations.InvariantAtReset := fun _ =>
  { memories := ⟨rfl, rfl, rfl⟩
    psr := ⟨BitVec.zero_and, BitVec.zero_and⟩
    loop := nofun
    multiplier := nofun
    waiting := trivial
    kout := Nat.two_pow_pos _ }

end Sys2Proof.Machine
end


section
/-!
PROOFS. What no instruction does: RAM, r0 to r3, the special registers, the ports and the environment's side
(10_state.md sections 2 to 7, 20_memory.md R67, R84). Each statement is a case split on the outcomes of an
instruction: in all but the few outcomes it names, the field passes through every update unchanged.
-/

namespace Sys2Proof.Machine

/-! ## A stored word -/

/-- The operand's update as a whole state (R138, R140). -/
theorem update_eq (t : Operand) (s : State) : update t s = { s with idx := (update t s).idx } := by
  cases t with
  | romDirect | ramDirect => rfl
  | indexed k => cases k <;> rfl

theorem update_idx_congr {s s' : State} (h : s'.idx = s.idx) (t : Operand) :
    (update t s').idx = (update t s).idx := by
  cases t with
  | romDirect | ramDirect => exact h
  | indexed k => cases k <;> simp [update, updateIdx, setIdx, getIdx, h]

/-- A completed store as a whole state (R79, R142). -/
theorem complete_stored_eq (t : Operand) (a : RamAddr) (c : Cplx) (s : State) :
    complete (update t (ramWrite a c s)) =
      { s with ram := (ramWrite a c s).ram, wbbEmpty := false, idx := (update t s).idx, cmpf := true,
               pcr := (nextAddress s).1, loop := (nextAddress s).2, icount := s.icount + 1 } := by
  rw [update_eq, update_idx_congr (ramWrite_idx a c s)]
  rfl

/-- The completed store: the word at `a`, in the form of its area. -/
theorem ramRead_stored_same (t : Operand) (a : RamAddr) (c : Cplx) (s : State) :
    ramRead a (complete (update t (ramWrite a c s))) = some (inArea s.cfg.ramInt a.toNat c) :=
  (ramRead_congr (by simp) (by simp) a).trans (ramRead_ramWrite_same a c s)

theorem ramRead_stored_ne {a b : RamAddr} (h : b ≠ a) (t : Operand) (c : Cplx) (s : State) :
    ramRead b (complete (update t (ramWrite a c s))) = ramRead b s :=
  (ramRead_congr (by simp) (by simp) b).trans (ramRead_ramWrite_ne h c s)

/-- What an instruction with a store operand can do: it stores a word from the state it finds, `sts.com` from that
state with its event and running; or it waits with nothing touched (R142, 45_bar_ports_control.md R244). -/
theorem store_cases {i : Instr} {t : Operand} {s s' : State} (hstore : i.storeOperand = some t)
    (h : exec i s = .next s') :
    (∃ a c, locate t s = .ram a ∧ s' = complete (update t (ramWrite a c s))) ∨
      (∃ a c e, locate t s = .ram a ∧ s' = complete (update t (ramWrite a c (setRun .running (emit e s))))) ∨
      ∃ w, s' = setRun (.waiting w) s := by
  cases i with
  | sta | stsPsr | stsRsr | stsBar | stxPtr =>
    obtain rfl := Option.some.inj hstore
    simp only [exec_sta, exec_stsPsr, exec_stsRsr, exec_stsBar, exec_stxPtr] at h
    obtain ⟨a, -, ha, rfl⟩ := storeAndComplete_next_iff.1 h
    exact .inl ⟨a, _, ha, rfl⟩
  | stsCom p t =>
    obtain rfl := Option.some.inj hstore
    rw [exec_stsCom] at h
    obtain ⟨-, ⟨-, a, ha, rfl⟩ | ⟨-, rfl⟩⟩ := recvWord_next_iff.1 h
    · exact .inr (.inl ⟨a, _, _, ha, rfl⟩)
    · exact .inr (.inr ⟨_, rfl⟩)
  | _ => cases hstore

section Frames
variable {i : Instr} {s s' : State} (he : Effect s i s')
include he

/-! ## RAM -/

theorem ram_of_effect (hstore : i.storeOperand = none) : s'.ram = s.ram := by
  cases he with
  | store c hs => rw [hstore] at hs; cases hs
  | recv => cases hstore
  | _ => simp

/-! ## r0 to r3 -/

theorem gpr_of_effect {r : Reg} (hr : r = .r0 ∨ r = .r1 ∨ r = .r2 ∨ r = .r3) (hdest : i.dest ≠ some r)
    (hrpt : ∀ t, i ≠ .rpt r t) : readReg r s' = readReg r s := by
  have hwrite {j : Reg} (hj : i.dest = some j) (c : Cplx) (u : Option Operand) (s₁ : State) :
      readReg r (writeReg j c u s₁) = readReg r s₁ :=
    readReg_writeReg_gpr hr (by rintro rfl; exact hdest hj) c u s₁
  have hcomplete (s₁ : State) : readReg r (complete s₁) = readReg r s₁ := readReg_gpr_congr hr rfl
  have hflags (re im : Bool) (s₁ : State) : readReg r (setAluFlags re im s₁) = readReg r s₁ :=
    readReg_gpr_congr hr rfl
  have hbranch (c : Bool) (a : CodeAddr) (s₁ : State) : readReg r (branchIf c a s₁) = readReg r s₁ :=
    readReg_gpr_congr hr (branchIf_gpr c a s₁)
  have hloop (l : Loop) (s₁ : State) : readReg r (setLoop l s₁) = readReg r s₁ := readReg_gpr_congr hr rfl
  cases he with
  | write c hd => rw [hcomplete, hwrite hd]
  | alu c re im hd => rw [hcomplete, hflags, hwrite hd]
  | loadWrite c hd => rw [hcomplete, hwrite hd, readReg_update]
  | loadAlu c re im hd => rw [hcomplete, hflags, hwrite hd, readReg_update]
  | cyc j t c => rw [hbranch, hwrite rfl, readReg_update]
  | rpt j t e =>
    have hne : j ≠ r := fun h => hrpt t (h ▸ rfl)
    rw [hcomplete, hloop, readReg_forgetReg_gpr hr hne, readReg_update]
  | _ => exact readReg_gpr_congr hr (by simp)

/-! ## The special registers and the ports -/

theorem rsr_of_effect (h : ∀ j, i ≠ .jsr j) : s'.rsr = s.rsr := by
  cases he with
  | jsr j => exact absurd rfl (h j)
  | _ => simp

theorem dsr_of_effect (h : ∀ t, i ≠ .ldsDsr t) : s'.dsr = s.dsr := by
  cases he with
  | ldsDsr t => exact absurd rfl (h t)
  | _ => simp

theorem bar_of_effect (hlds : ∀ t, i ≠ .ldsBar t) (hadd : ∀ t, i ≠ .addBar t) : s'.bar = s.bar := by
  cases he with
  | ldsBar t => exact absurd rfl (hlds t)
  | addBar t => exact absurd rfl (hadd t)
  | _ => simp

theorem ports_of_effect (hsend : ∀ p t, i ≠ .ldsCom p t) (hctl : ∀ t, i ≠ .ctl t) : s'.ports = s.ports := by
  cases he with
  | send p t => exact absurd rfl (hsend p t)
  | ctl t => exact absurd rfl (hctl t)
  | _ => simp

theorem trace_of_effect (hsend : ∀ p t, i ≠ .ldsCom p t) (hrecv : ∀ p t, i ≠ .stsCom p t)
    (hctl : ∀ t, i ≠ .ctl t) (hwai : ∀ t, i ≠ .wai t) : s'.trace = s.trace := by
  cases he with
  | send p t => exact absurd rfl (hsend p t)
  | recv p t => exact absurd rfl (hrecv p t)
  | ctl t => exact absurd rfl (hctl t)
  | poll t | pollWait t => exact absurd rfl (hwai t)
  | _ => simp

theorem environment_of_effect : s'.pins = s.pins ∧ s'.env = s.env := by
  cases he <;> simp

end Frames

/-! ## The obligations -/

/-- Settles O49: without a store operand RAM passes through; with one the word is written where it locates. -/
theorem ramChangesOnlyByStores : Obligations.RamChangesOnlyByStores := by
  intro i s s' h
  refine ⟨ram_of_effect (effect_of_exec h), fun t hstore b hb => ?_⟩
  obtain ⟨a, c, ha, rfl⟩ | ⟨a, c, e, ha, rfl⟩ | ⟨w, rfl⟩ := store_cases hstore h
  · exact ramRead_stored_ne (by rintro rfl; exact hb ha) t c s
  · exact ramRead_stored_ne (by rintro rfl; exact hb ha) t c _
  · rfl

/-- Settles O25: a store that completes is one term, and `sts.com` differs from the others in its event only. -/
theorem storeFrame : Obligations.StoreFrame := by
  intro i t a s s' hstore hloc hrunning h hrun
  obtain ⟨a', c, ha, rfl⟩ | ⟨a', c, e, ha, rfl⟩ | ⟨w, rfl⟩ := store_cases hstore h
  · obtain rfl := Loc.ram.inj (ha.symm.trans hloc)
    refine ⟨fun b hb => ramRead_stored_ne hb t c s, by rw [ramRead_stored_same]; rfl, ?_⟩
    rw [complete_stored_eq]
  · obtain rfl := Loc.ram.inj (ha.symm.trans hloc)
    refine ⟨fun b hb => ramRead_stored_ne hb t c _, by rw [ramRead_stored_same]; rfl, ?_⟩
    have hidx : (update t (setRun .running (emit e s))).idx = (update t s).idx := update_idx_congr (by simp) t
    rw [complete_stored_eq, hidx, nextAddress_setRun, nextAddress_emit]
    simp only [setRun, emit, hrunning]
  · cases hrun

/-- Settles O50. -/
theorem generalRegisterFrame : Obligations.GeneralRegisterFrame := fun _ _ _ h _ hr hdest hrpt =>
  gpr_of_effect (effect_of_exec h) hr hdest hrpt

/-- Settles O53: a register is named by the outcomes that set it. -/
theorem specialRegisterFrame : Obligations.SpecialRegisterFrame := by
  intro i s s' h
  have he := effect_of_exec h
  exact ⟨rsr_of_effect he, dsr_of_effect he, bar_of_effect he, ports_of_effect he, trace_of_effect he,
    environment_of_effect he⟩

end Sys2Proof.Machine
end


section
/-!
PROOFS. How an instruction ends: `Cmpf`, the run state, the hardware loop and the program counter after every
instruction (10_state.md R24, R42; 44_test_branch.md R210, R225, R229, R230).
-/

namespace Sys2Proof.Machine

/-- A test ANDs into `Cmpf` (R210). -/
theorem cmpf_of_test {i : Instr} {s s' : State} (htest : i.isTest = true) (h : exec i s = .next s')
    (hset : s'.cmpf = true) : s.cmpf = true := by
  cases i with
  | teq | tne | tgr | tge | tsm | tse | tbw =>
    simp only [exec_teq, exec_tne, exec_tgr, exec_tge, exec_tsm, exec_tse, exec_tbw] at h
    obtain ⟨v, -, -, rfl⟩ := testMem_next_iff.1 h
    rw [advance_cmpf, andCmpf_cmpf, update_cmpf, Bool.and_eq_true] at hset
    exact hset.1
  | _ => cases htest

section Ends
variable {i : Instr} {s s' : State} (he : Effect s i s')
include he

/-- An instruction completes and is counted, or it halts or waits where it stands (R42). -/
theorem counted_or_stays :
    (s'.icount = s.icount + 1 ∧ (i.isTest = false → s'.cmpf = true)) ∨
      (s'.icount = s.icount ∧ s'.cmpf = s.cmpf ∧ s'.pcr = s.pcr ∧ s'.loop = s.loop) := by
  cases he with
  | brk | recvWait | sendWait | pollWait => exact .inr (by simp)
  | test c htest => exact .inl ⟨by simp, by simp [htest]⟩
  | _ => exact .inl (by simp)

/-- The loop-end check is made at every completion (R229, R230), of a `rpt` on the loop it starts. -/
theorem loop_of_effect (hrpt : ∀ r t, i ≠ .rpt r t) :
    (s'.icount = s.icount ∧ s'.loop = s.loop) ∨
      (s'.icount = s.icount + 1 ∧ s'.loop = (nextAddress s).2) := by
  cases he with
  | rpt r t => exact absurd rfl (hrpt r t)
  | brk | recvWait | sendWait | pollWait => exact .inl (by simp)
  | _ => exact .inr (by simp)

/-- What is no transfer of control goes to the next address. -/
theorem pcr_of_effect (hrpt : ∀ r t, i ≠ .rpt r t) (hbrt : ∀ j, i ≠ .brt j) (hbrf : ∀ j, i ≠ .brf j)
    (hbra : ∀ j, i ≠ .bra j) (hbri : ∀ t, i ≠ .bri t) (hcyc : ∀ r t, i ≠ .cyc r t) (hjsr : ∀ j, i ≠ .jsr j) :
    (s'.icount = s.icount + 1 ∧ s'.pcr = (nextAddress s).1) ∨ (s'.icount = s.icount ∧ s'.pcr = s.pcr) := by
  cases he with
  | rpt r t => exact absurd rfl (hrpt r t)
  | branch c j hi =>
    obtain hi | hi | hi := hi
    · exact absurd hi (hbrt j)
    · exact absurd hi (hbrf j)
    · exact absurd hi (hbra j)
  | bri t => exact absurd rfl (hbri t)
  | cyc r t => exact absurd rfl (hcyc r t)
  | jsr j => exact absurd rfl (hjsr j)
  | brk | recvWait | sendWait | pollWait => exact .inr (by simp)
  | _ => exact .inl (by simp)

/-- The three instructions that can wait (R42). -/
def MayWait (i : Instr) : Prop :=
  (∃ p t, i = .ldsCom p t) ∨ (∃ p t, i = .stsCom p t) ∨ ∃ t, i = .wai t

theorem run_of_effect (hrun : s.run = .running) (hbrk : i ≠ .brk) :
    s'.run = .running ∨ (∃ w, s'.run = .waiting w) ∧ MayWait i := by
  cases he with
  | brk => exact absurd rfl hbrk
  | sendWait p t => exact .inr ⟨⟨_, rfl⟩, .inl ⟨p, t, rfl⟩⟩
  | recvWait p t => exact .inr ⟨⟨_, rfl⟩, .inr (.inl ⟨p, t, rfl⟩)⟩
  | pollWait t => exact .inr ⟨⟨_, rfl⟩, .inr (.inr ⟨t, rfl⟩)⟩
  | _ => exact .inl (by simp [hrun])

end Ends

/-! ## The obligations -/

/-- Settles O55: a completed instruction sets `Cmpf` unless it is a test, and one that is not counted leaves it. -/
theorem compareFlagAndRunRule : Obligations.CompareFlagAndRunRule := by
  intro i s s' h
  have he := effect_of_exec h
  refine ⟨fun htest => cmpf_of_test htest h, fun htest hcount => ?_, fun hcount => ?_, fun hrun => ?_⟩
  · obtain ⟨-, hset⟩ | ⟨hstays, -⟩ := counted_or_stays he
    · exact hset htest
    · exact absurd hstays hcount
  · obtain ⟨hcounted, -⟩ | ⟨-, hstays⟩ := counted_or_stays he
    · omega
    · exact hstays
  · by_cases hbrk : i = .brk
    · subst hbrk
      rw [exec_brk] at h
      cases h
      simp
    · obtain hend | ⟨⟨w, hend⟩, hmay⟩ := run_of_effect he hrun hbrk
      · simp [hend, hbrk]
      · exact ⟨by simp [hend, hbrk], fun _ => hmay⟩

/-- Settles O56. -/
theorem loopAndProgramCounterRule : Obligations.LoopAndProgramCounterRule := by
  intro i s s' h hrpt
  have he := effect_of_exec h
  exact ⟨loop_of_effect he hrpt, pcr_of_effect he hrpt⟩

end Sys2Proof.Machine
end


section
/-!
PROOFS. Which instructions touch the Butterfly/MAC unit, the index registers and psr, and how (47_butterfly_mac.md
R275 to R278, R284, R285; 10_state.md R27 to R29, R33). Again each statement is a case split on the outcomes of an
instruction; here the writes of a register have outcomes of their own, which the laws of `writeReg` give.
-/

namespace Sys2Proof.Machine

/-! ## The Butterfly/MAC unit -/

/-- `rpt` on r0 to r3 leaves the unit and R334's record alone. -/
theorem forgetReg_mac_of_gpr {r : Reg} (hr : r = .r0 ∨ r = .r1 ∨ r = .r2 ∨ r = .r3) (s : State) :
    (forgetReg r s).mac = s.mac ∧ (forgetReg r s).mulw = s.mulw := by
  obtain rfl | rfl | rfl | rfl := hr <;> exact ⟨rfl, rfl⟩

/-- `rpt` leaves the latch of its register unspecified, and every other latch alone (44_test_branch.md R231 (d)). -/
theorem forgetReg_latches (r : Reg) (s : State) :
    (if r = .r4 then (forgetReg r s).mac.r4in.specified = false
      else (forgetReg r s).mac.r4in = s.mac.r4in) ∧
    (if r = .r5 then (forgetReg r s).mac.r5in.specified = false
      else (forgetReg r s).mac.r5in = s.mac.r5in) ∧
    (if r = .r6 then (forgetReg r s).mac.r6in.specified = false
      else (forgetReg r s).mac.r6in = s.mac.r6in) ∧
    (if r = .r7 then (forgetReg r s).mac.r7in.specified = false
      else (forgetReg r s).mac.r7in = s.mac.r7in) := by
  cases r <;> simp [forgetReg]

/-- `lds.psr` leaves the input latches alone (47_butterfly_mac.md R285). -/
theorem writePsr_latches (w : W32) (s : State) :
    (writePsr w s).mac.r4in = s.mac.r4in ∧ (writePsr w s).mac.r5in = s.mac.r5in ∧
      (writePsr w s).mac.r6in = s.mac.r6in ∧ (writePsr w s).mac.r7in = s.mac.r7in := by
  rw [writePsr_mac]
  split <;> simp [macClear_mac]

/-- The internal registers are those of another state of the unit (47_butterfly_mac.md R271 (b)). -/
def SameInternal (m m' : Mac) : Prop := m'.a = m.a ∧ m'.b = m.b ∧ m'.q = m.q ∧ m'.r = m.r ∧ m'.lreg = m.lreg

section Frames
variable {i : Instr} {s s' : State}

theorem mac_of_effect (he : Effect s i s') (h4 : i.dest ≠ some .r4) (h5 : i.dest ≠ some .r5)
    (h6 : i.dest ≠ some .r6) (h7 : i.dest ≠ some .r7) (hpsr : ∀ t, i ≠ .ldsPsr t)
    (hrpt : ∀ r t, i = .rpt r t → r = .r0 ∨ r = .r1 ∨ r = .r2 ∨ r = .r3) :
    s'.mac = s.mac ∧ s'.mulw = s.mulw := by
  have hwrite {r : Reg} (hd : i.dest = some r) (c : Cplx) (t : Option Operand) (s₁ : State) :
      (writeReg r c t s₁).mac = s₁.mac ∧ (writeReg r c t s₁).mulw = s₁.mulw :=
    writeReg_mac_of_gpr (by rintro rfl; exact h4 hd) (by rintro rfl; exact h5 hd) (by rintro rfl; exact h6 hd)
      (by rintro rfl; exact h7 hd) c t s₁
  cases he with
  | write c hd | alu c _ _ hd | loadWrite c hd | loadAlu c _ _ hd => simp [hwrite hd]
  | cyc r t c => simp [hwrite rfl]
  | rpt r t => simp [forgetReg_mac_of_gpr (hrpt r t rfl)]
  | ldsPsr t => exact absurd rfl (hpsr t)
  | _ => simp

theorem mac_internal_of_effect (he : Effect s i s') (h7 : i.dest ≠ some .r7) (hpsr : ∀ t, i ≠ .ldsPsr t) :
    SameInternal s.mac s'.mac := by
  have hwrite {r : Reg} (hd : i.dest = some r) (c : Cplx) (t : Option Operand) (s₁ : State) :
      SameInternal s₁.mac (writeReg r c t s₁).mac :=
    writeReg_mac_internal (by rintro rfl; exact h7 hd) c t s₁
  cases he with
  | write c hd | alu c _ _ hd => simpa using hwrite hd c none s
  | loadWrite c hd | loadAlu c _ _ hd => simpa using hwrite hd c _ (update _ s)
  | cyc r t c => simpa using hwrite rfl c (some t) (update t s)
  | rpt r t => simpa [SameInternal] using forgetReg_mac_internal r (update t s)
  | ldsPsr t => exact absurd rfl (hpsr t)
  | _ => simp [SameInternal]

end Frames

/-- Settles O51: the writers of the unit are the writes of r4 to r7, `lds.psr`, and `rpt` on one of them. -/
theorem macFrame : Obligations.MacFrame := by
  intro i s s' h
  have he := effect_of_exec h
  refine ⟨mac_of_effect he, mac_internal_of_effect he, ?_, ?_⟩
  · rintro t rfl
    rw [exec_ldsPsr] at h
    obtain ⟨v, -, hv, rfl⟩ := loadAndComplete_next_iff.1 h
    obtain ⟨hr4, hr5, hr6, hr7⟩ := writePsr_latches v.re (update t s)
    refine ⟨by simpa using hr4, by simpa using hr5, by simpa using hr6, by simpa using hr7, ?_⟩
    intro v' hv' hclear
    obtain rfl := Option.some.inj (hv.symm.trans hv')
    rw [complete_mac, writePsr_mac, hclear]
    simp
  · rintro r t rfl
    rw [exec_rpt] at h
    obtain ⟨v, -, -, -, rfl⟩ := execRpt_next_iff.1 h
    simpa using forgetReg_latches r (update t s)

/-! ## The index registers -/

theorem getIdx_setIdx (j k : XReg) (v : Index) (s : State) :
    getIdx j (setIdx k v s) = if j = k then v else getIdx j s := by
  split
  · rename_i h; subst h; exact getIdx_setIdx_same j v s
  · rename_i h; exact getIdx_setIdx_ne h v s

section Index
variable {i : Instr} {k : XReg} {s s' : State}

/-- A part `f` of an index that is no pointer changes only by the `ldx` that sets it (R263 to R265). -/
theorem index_part_of_effect (he : Effect s i s') (f : Index → Index13)
    (hptr : ∀ x v, f { x with ptr := v } = f x)
    (hinc : (∀ t, i ≠ .ldxInc k t) ∨ ∀ x v, f { x with inc := v } = f x)
    (hbas : (∀ t, i ≠ .ldxBas k t) ∨ ∀ x v, f { x with bas := v } = f x)
    (hlim : (∀ t, i ≠ .ldxLim k t) ∨ ∀ x v, f { x with lim := v } = f x) :
    f (getIdx k s') = f (getIdx k s) := by
  have hupd (t : Operand) (s₁ : State) : f (getIdx k (update t s₁)) = f (getIdx k s₁) := by
    rw [getIdx_update]
    split
    · split
      · exact hptr _ _
      · rfl
    · rfl
  have hwrite (r : Reg) (c : Cplx) (t : Option Operand) (s₁ : State) :
      f (getIdx k (writeReg r c t s₁)) = f (getIdx k s₁) := by
    rw [getIdx_writeReg]
    split
    · rename_i h; rw [h.1]; exact hptr _ _
    · rfl
  have hset {j : XReg} {x : Index} (hx : j = k → f x = f (getIdx k s)) (s₁ : State)
      (hs : f (getIdx k s₁) = f (getIdx k s)) : f (getIdx k (setIdx j x s₁)) = f (getIdx k s) := by
    rw [getIdx_setIdx]
    split
    · rename_i h; exact hx h.symm
    · exact hs
  cases he with
  | xfrPtr j => simpa using hset (by rintro rfl; exact hptr _ _) s rfl
  | ldxPtr j t => simpa using hset (by rintro rfl; exact hptr _ _) _ (hupd t s)
  | ldxInc j t =>
    simpa using hset (by rintro rfl; exact hinc.elim (fun h => absurd rfl (h t)) fun h => h _ _) _ (hupd t s)
  | ldxBas j t =>
    simpa using hset (by rintro rfl; exact hbas.elim (fun h => absurd rfl (h t)) fun h => h _ _) _ (hupd t s)
  | ldxLim j t =>
    simpa using hset (by rintro rfl; exact hlim.elim (fun h => absurd rfl (h t)) fun h => h _ _) _ (hupd t s)
  | _ => simp [hupd, hwrite]

/-- A pointer changes by `xfr.ptr`, `ldx.ptr`, an operand's update, or the automatic load through x0. -/
theorem ptr_of_effect (he : Effect s i s') (hxfr : ∀ r, i ≠ .xfrPtr k r) (hldx : ∀ t, i ≠ .ldxPtr k t)
    (hmem : ∀ t, i.memOperand = some t → updatesIndex t k = false)
    (hauto : ¬ (k = .x0 ∧ i.dest = some .r7 ∧ s.psr.extractLsb' 11 2 = 2)) :
    (getIdx k s').ptr = (getIdx k s).ptr := by
  have hupd {t : Operand} (ht : i.memOperand = some t) (s₁ : State) : getIdx k (update t s₁) = getIdx k s₁ :=
    getIdx_update_of_not (hmem t ht) s₁
  have hwrite {r : Reg} (hd : i.dest = some r) (c : Cplx) (t : Option Operand) {s₁ : State}
      (hpsr : s₁.psr = s.psr) : getIdx k (writeReg r c t s₁) = getIdx k s₁ := by
    rw [getIdx_writeReg, if_neg]
    rintro ⟨hk, rfl, hact, -⟩
    exact hauto ⟨hk, hd, hpsr ▸ hact⟩
  have hldxPart {j : XReg} {x : Index} (hx : x.ptr = (getIdx j s).ptr) {s₁ : State}
      (hs : getIdx k s₁ = getIdx k s) : (getIdx k (setIdx j x s₁)).ptr = (getIdx k s).ptr := by
    rw [getIdx_setIdx]
    split
    · rename_i h; rw [hx, h]
    · rw [hs]
  cases he with
  | nopUpdate t => simp [hupd rfl]
  | write c hd | alu c _ _ hd => simp [hwrite hd]
  | loadWrite c hd _ ht | loadAlu c _ _ hd _ ht => simp [hwrite hd, hupd ht]
  | test c _ ht => simp [hupd ht]
  | cyc r t c => simp [hwrite rfl, hupd rfl]
  | store c _ ht => simp [hupd ht]
  | xfrPtr j r =>
    have hne : k ≠ j := fun h => hxfr r (h ▸ rfl)
    simp [getIdx_setIdx_ne hne]
  | ldxPtr j t =>
    have hne : k ≠ j := fun h => hldx t (h ▸ rfl)
    simp [getIdx_setIdx_ne hne, hupd rfl]
  | ldxInc j t | ldxBas j t | ldxLim j t =>
    rw [getIdx_complete]
    refine hldxPart ?_ (hupd rfl s)
    rfl
  | bri t | rpt _ t | recv _ t | ldsDsr t | ldsPsr t | ldsBar t | addBar t | ctl t | send _ t | sendWait _ t | poll t
  | pollWait t => simp [hupd rfl]
  | _ => simp

end Index

/-- Settles O52: the pointer has its own rule; `n`, `b` and `L` are parts that no pointer update touches. -/
theorem indexRegisterFrame : Obligations.IndexRegisterFrame := by
  intro i k s s' h
  have he := effect_of_exec h
  have part := fun f hptr => index_part_of_effect (k := k) he f hptr
  exact ⟨ptr_of_effect he,
    fun hinc => part Index.inc (fun _ _ => rfl) (.inl hinc) (.inr fun _ _ => rfl) (.inr fun _ _ => rfl),
    fun hbas => part Index.bas (fun _ _ => rfl) (.inr fun _ _ => rfl) (.inl hbas) (.inr fun _ _ => rfl),
    fun hlim => part Index.lim (fun _ _ => rfl) (.inr fun _ _ => rfl) (.inr fun _ _ => rfl) (.inl hlim)⟩

/-! ## psr -/

/-- Bit `n` of psr, and of the record of the written flags, is the same in `s'` as in `s`. -/
def SamePsrBit (n : Nat) (s s' : State) : Prop :=
  s'.psr.getLsbD n = s.psr.getLsbD n ∧ s'.flagsWritten.getLsbD n = s.flagsWritten.getLsbD n

theorem samePsrBit_of_eq {s s' : State} (n : Nat) (hpsr : s'.psr = s.psr)
    (hwritten : s'.flagsWritten = s.flagsWritten) : SamePsrBit n s s' :=
  ⟨by rw [hpsr], by rw [hwritten]⟩

theorem SamePsrBit.trans {n : Nat} {s s' s'' : State} (h : SamePsrBit n s s') (h' : SamePsrBit n s' s'') :
    SamePsrBit n s s'' :=
  ⟨h'.1.trans h.1, h'.2.trans h.2⟩

/-- `AluFlags` sets b31 and b30 only (41_logic_arith.md R169). -/
theorem samePsrBit_setAluFlags {n : Nat} (h30 : n ≠ 30) (h31 : n ≠ 31) (re im : Bool) (s : State) :
    SamePsrBit n s (setAluFlags re im s) := by
  have hrecord : (setAluFlags re im s).flagsWritten = s.flagsWritten ||| 0xC0000000#32 := rfl
  constructor
  · rw [getLsbD_psr_setAluFlags, if_neg h30, if_neg h31]
  · rw [hrecord, BitVec.getLsbD_or, aluFlag_getLsbD]
    simp [h30, h31]

/-- A write of a register changes the accumulation flags only (47_butterfly_mac.md R284). -/
theorem samePsrBit_writeReg {n : Nat} (hn : ¬ IsAccumulationFlag n) (i : Reg) (c : Cplx) (t : Option Operand)
    (s : State) : SamePsrBit n s (writeReg i c t s) := by
  obtain ⟨h24, h25, h28, h29⟩ : n ≠ 24 ∧ n ≠ 25 ∧ n ≠ 28 ∧ n ≠ 29 := by
    simpa [IsAccumulationFlag] using hn
  exact ⟨getLsbD_psr_writeReg i c t s h24 h25 h28 h29, getLsbD_flagsWritten_writeReg i c t s h24 h25 h28 h29⟩

/-- `lds.psr` changes the control bits and, with the clear action, the accumulation flags
(43_load_store_status.md R202). -/
theorem samePsrBit_writePsr {n : Nat} (hcontrol : ¬ (n < 20 ∨ n = 21)) (hn : ¬ IsAccumulationFlag n) (w : W32)
    (s : State) : SamePsrBit n s (writePsr w s) := by
  obtain ⟨h24, h25, h28, h29⟩ : n ≠ 24 ∧ n ≠ 25 ∧ n ≠ 28 ∧ n ≠ 29 := by
    simpa [IsAccumulationFlag] using hn
  constructor
  · rw [getLsbD_psr_writePsr, if_neg hcontrol]
    simp [h24, h25, h28, h29]
  · rw [writePsr_flagsWritten]
    split
    · rw [macClear_flagsWritten, BitVec.getLsbD_or, accFlag_getLsbD]
      simp [h24, h25, h28, h29]
    · rfl

section Psr
variable {i : Instr} {n : Nat} {s s' : State}

/-- A bit stays unless the instruction is one of those that reach it: b31 and b30 are the ALU operations', the
accumulation flags are the r7 writes' and `lds.psr`'s, and the control bits are `lds.psr`'s. -/
theorem samePsrBit_of_effect (he : Effect s i s') (halu : i.isAlu = true → n ≠ 30 ∧ n ≠ 31)
    (hacc : IsAccumulationFlag n → i.dest ≠ some .r7)
    (hpsr : (∀ t, i ≠ .ldsPsr t) ∨ (¬ (n < 20 ∨ n = 21) ∧ ¬ IsAccumulationFlag n)) : SamePsrBit n s s' := by
  have hwrite {r : Reg} (hd : i.dest = some r) (c : Cplx) (t : Option Operand) (s₁ : State) :
      SamePsrBit n s₁ (writeReg r c t s₁) := by
    by_cases hn : IsAccumulationFlag n
    · have h7 : r ≠ .r7 := by rintro rfl; exact hacc hn hd
      obtain ⟨hp, hw, -⟩ := writeReg_psr_of_ne h7 c t s₁
      exact samePsrBit_of_eq n hp hw
    · exact samePsrBit_writeReg hn r c t s₁
  have hupd (t : Operand) : SamePsrBit n s (update t s) := samePsrBit_of_eq n (by simp) (by simp)
  cases he with
  | write c hd => exact hwrite hd c none s
  | loadWrite c hd => exact (hupd _).trans (hwrite hd c _ _)
  | alu c re im hd ha =>
    obtain ⟨h30, h31⟩ := halu ha
    exact (hwrite hd c none s).trans (samePsrBit_setAluFlags h30 h31 re im _)
  | loadAlu c re im hd ha =>
    obtain ⟨h30, h31⟩ := halu ha
    exact ((hupd _).trans (hwrite hd c _ _)).trans (samePsrBit_setAluFlags h30 h31 re im _)
  | cyc r t c =>
    exact ((hupd t).trans (hwrite rfl c (some t) _)).trans (samePsrBit_of_eq n (by simp) (by simp))
  | ldsPsr t v =>
    obtain h | ⟨hcontrol, hn⟩ := hpsr
    · exact absurd rfl (h t)
    · exact (hupd t).trans (samePsrBit_writePsr hcontrol hn v.re _)
  | _ => exact samePsrBit_of_eq n (by simp) (by simp)

/-- A write of r7 never clears an accumulation flag: it stays set, or becomes a draw (R284, R334). -/
theorem accFlag_sticky_of_effect (he : Effect s i s') (hn : IsAccumulationFlag n) (hd7 : i.dest = some .r7)
    (hset : s.psr.getLsbD n = true) : s'.psr.getLsbD n = true ∨ s'.flagsWritten.getLsbD n = false := by
  have hwrite (c : Cplx) (t : Option Operand) {s₁ : State} (hpsr : s₁.psr = s.psr) :
      (writeReg .r7 c t s₁).psr.getLsbD n = true ∨ (writeReg .r7 c t s₁).flagsWritten.getLsbD n = false :=
    psr_writeReg_sticky .r7 c t s₁ (hpsr ▸ hset)
  have halu (re im : Bool) (s₁ : State) : SamePsrBit n s₁ (setAluFlags re im s₁) :=
    samePsrBit_setAluFlags (by rintro rfl; simp [IsAccumulationFlag] at hn)
      (by rintro rfl; simp [IsAccumulationFlag] at hn) re im s₁
  cases he with
  | write c hd =>
    obtain rfl := Option.some.inj (hd.symm.trans hd7)
    exact hwrite c none rfl
  | loadWrite c hd =>
    obtain rfl := Option.some.inj (hd.symm.trans hd7)
    exact hwrite c _ (update_psr _ s)
  | alu c re im hd =>
    obtain rfl := Option.some.inj (hd.symm.trans hd7)
    obtain ⟨hpsr, hwritten⟩ := halu re im (writeReg .r7 c none s)
    rw [complete_psr, complete_flagsWritten, hpsr, hwritten]
    exact hwrite c none rfl
  | loadAlu c re im hd =>
    obtain rfl := Option.some.inj (hd.symm.trans hd7)
    obtain ⟨hpsr, hwritten⟩ := halu re im (writeReg .r7 c (some _) (update _ s))
    rw [complete_psr, complete_flagsWritten, hpsr, hwritten]
    exact hwrite c _ (update_psr _ s)
  | cyc r t c =>
    obtain rfl := Option.some.inj hd7
    simpa using hwrite c (some t) (update_psr t s)
  | ldsPsr => cases hd7
  | _ => exact .inl (by simpa using hset)

end Psr

/-- Settles O54: which bits an instruction reaches, the stickiness of an r7 write, and the clear action. -/
theorem psrFrame : Obligations.PsrFrame := by
  intro i s s' h
  have he := effect_of_exec h
  refine ⟨fun hpsr n hn => ?_, fun halu => ?_, fun n hn => ⟨fun h7 hpsr => ?_, fun h7 => ?_, ?_⟩⟩
  · have hnacc : ¬ IsAccumulationFlag n := by unfold IsAccumulationFlag; omega
    exact (samePsrBit_of_effect he (fun _ => by omega) (fun hacc => absurd hacc hnacc) (.inl hpsr)).1
  · have same (n : Nat) (hcontrol : ¬ (n < 20 ∨ n = 21)) (hacc : ¬ IsAccumulationFlag n) : SamePsrBit n s s' :=
      samePsrBit_of_effect he (fun h => by rw [halu] at h; cases h) (fun h => absurd h hacc) (.inr ⟨hcontrol, hacc⟩)
    exact ⟨same 30 (by decide) (by simp [IsAccumulationFlag]), same 31 (by decide) (by simp [IsAccumulationFlag])⟩
  · exact samePsrBit_of_effect he (fun _ => by omega) (fun _ => h7) (.inl hpsr)
  · exact accFlag_sticky_of_effect he hn h7
  · rintro ⟨t, rfl⟩ hclear
    rw [exec_ldsPsr] at h
    obtain ⟨v, -, -, rfl⟩ := loadAndComplete_next_iff.1 h
    rw [complete_psr, getLsbD_psr_writePsr, if_neg (by omega), update_psr, hclear, Bool.false_and]

end Sys2Proof.Machine
end


section
/-!
PROOFS. Where an instruction stops: an illegal term, a RAM word that nothing has written, a forbidden register write
(30_encoding.md R108, 20_memory.md R67, 44_test_branch.md R231 (d), 47_butterfly_mac.md R279 (b)). How an
instruction reaches its operand is said once (`access`); each stop is then a fact about that access.
-/

namespace Sys2Proof.Machine

/-! ## The stops of an operand access -/

theorem onLoad_of_illegal {t : Operand} {s : State} (h : readable t s = false) (k : Cplx → State → Out) :
    onLoad t s k = .fault .illegalInstruction := by
  simp [onLoad, load, h]

theorem onLoadAddr_of_illegal {t : Operand} {s : State} (h : storable t s = false)
    (k : CodeAddr → State → Out) : onLoadAddr t s k = .fault .illegalInstruction := by
  simp [onLoadAddr, loadAddr, h]

theorem storeAndComplete_of_illegal {t : Operand} {s : State} (h : storable t s = false) (c : Cplx) :
    storeAndComplete t c s = .fault .illegalInstruction := by
  simp [storeAndComplete, store, h]

theorem recvWord_of_illegal {t : Operand} {s : State} (h : storable t s = false) (p : Port) :
    recvWord p t s = .fault .illegalInstruction := by
  simp [recvWord, h]

/-- Only an indexed operand, which always fits, updates an index: so the self-conflict comes after no illegal form. -/
theorem loadIndex_of_illegal {t : Operand} {s : State} (h : readable t s = false) (k : XReg)
    (f : Index13 → Index → Index) : loadIndex k t f s = .fault .illegalInstruction := by
  have hconflict : (t.legal && updatesIndex t k) = false := by
    cases t with
    | romDirect | ramDirect => simp [updatesIndex]
    | indexed j u b =>
      rw [readable_indexed] at h
      rw [h, Bool.false_and]
  rw [loadIndex, hconflict]
  exact onLoad_of_illegal h _

theorem execNop_of_illegal {t : Operand} (h : nopLegal (some t) = false) (s : State) :
    execNop (some t) s = .fault .illegalInstruction := by
  simp [execNop, h]

theorem onLoad_of_unwritten {t : Operand} {s : State} (h : readable t s = true)
    (hv : readLoc (locate t s) s = none) (k : Cplx → State → Out) : onLoad t s k = .fault .unwrittenRead := by
  simp [onLoad, load, h, hv]

theorem onLoadAddr_of_unwritten {t : Operand} {s : State} (h : storable t s = true)
    (hv : readLoc (locate t s) s = none) (k : CodeAddr → State → Out) :
    onLoadAddr t s k = .fault .unwrittenRead := by
  simp [onLoadAddr, loadAddr, load, h, readable_of_storable h, hv]

theorem loadIndex_of_unwritten {t : Operand} {s : State} {k : XReg} (h : readable t s = true)
    (hu : updatesIndex t k = false) (hv : readLoc (locate t s) s = none) (f : Index13 → Index → Index) :
    loadIndex k t f s = .fault .unwrittenRead := by
  rw [loadIndex, hu, Bool.and_false]
  exact onLoad_of_unwritten h hv _

/-- A readable operand in RAM is a RAM form: the DataROM forms are located in the DataROM. -/
theorem storable_of_readable {t : Operand} {s : State} {a : RamAddr} (h : readable t s = true)
    (ha : locate t s = .ram a) : storable t s = true := by
  simp only [readable, Bool.and_eq_true] at h
  have hform : t.ramForm = true := by
    cases t with
    | romDirect => cases ha
    | ramDirect => rfl
    | indexed k =>
      cases k with
      | x0 => cases ha
      | x1 | x2 | x3 => rfl
  simp [storable, hform, h.2]

/-! ## How an instruction reaches its operand -/

/-- The ways an instruction reaches its memory operand, with the forms that are legal there. -/
inductive Access (s : State) : Instr → Prop
  | noOperand {i : Instr} : i.wellFormed = true → i.memOperand = none → Access s i
  | nop (t : Operand) : Access s (.nop (some t))
  | load {i : Instr} {t : Operand} (k : Cplx → State → Out) : i.memOperand = some t → i.wellFormed = t.legal →
      exec i s = onLoad t s k → Access s i
  | loadAddr {i : Instr} {t : Operand} (k : CodeAddr → State → Out) : i.memOperand = some t →
      i.wellFormed = t.ramForm → exec i s = onLoadAddr t s k → Access s i
  | loadIndex {i : Instr} {t : Operand} (j : XReg) (f : Index13 → Index → Index) : i.memOperand = some t →
      i.wellFormed = t.legal → i = .ldxPtr j t ∨ i = .ldxInc j t ∨ i = .ldxBas j t ∨ i = .ldxLim j t →
      exec i s = Machine.loadIndex j t f s → Access s i
  | store {i : Instr} {t : Operand} : i.memOperand = some t → i.storeOperand = some t →
      i.wellFormed = t.ramForm → (storable t s = false → exec i s = .fault .illegalInstruction) → Access s i

theorem access (i : Instr) (s : State) : Access s i := by
  cases i with
  | nop t =>
    cases t with
    | none => exact .noOperand rfl rfl
    | some t => exact .nop t
  | and | ior | xor | add | sub | sbx | ldsDsr | slaDynT | sllT | srlT | sraT | sirT | lda | ldsPsr | teq | tne
  | tgr | tge | tsm | tse | tbw | ldsBar | addBar | ldsCom | ctl | wai => exact .load _ rfl rfl rfl
  | slaDynR | sllR | srlR | sraR | sirR | brt | brf | bra | jsr | brk | flsWbb | xfrPtr => exact .noOperand rfl rfl
  | sta | stsPsr | stsRsr | stsBar | stxPtr => exact .store rfl rfl rfl fun h => storeAndComplete_of_illegal h _
  | stsCom p t => exact .store rfl rfl rfl fun h => recvWord_of_illegal h p
  | bri | cyc | rpt => exact .loadAddr _ rfl rfl rfl
  | ldxPtr x t => exact .loadIndex x _ rfl rfl (.inl rfl) (exec_ldxPtr x t s)
  | ldxInc x t => exact .loadIndex x _ rfl rfl (.inr (.inl rfl)) (exec_ldxInc x t s)
  | ldxBas x t => exact .loadIndex x _ rfl rfl (.inr (.inr (.inl rfl))) (exec_ldxBas x t s)
  | ldxLim x t => exact .loadIndex x _ rfl rfl (.inr (.inr (.inr rfl))) (exec_ldxLim x t s)

/-! ## The obligations about operands -/

/-- Settles O6: an illegal form and an address that does not fit are both no readable or storable operand. -/
theorem illegalTermFaults : Obligations.IllegalTermFaults := by
  intro i s h
  cases access i s with
  | noOperand hwf hmem => simp [hwf, hmem] at h
  | nop t =>
    have hnop : nopLegal (some t) = false := by
      obtain hwf | ⟨u, hu, hfits⟩ := h
      · exact hwf
      · obtain rfl := Option.some.inj hu
        cases t <;> simp [Operand.fits, nopLegal, Operand.isIndexed] at hfits ⊢
    exact execNop_of_illegal hnop s
  | load k hmem hwf hexec =>
    rw [hexec, onLoad_of_illegal]
    simpa [readable, hwf, hmem, or_iff_not_imp_left] using h
  | loadAddr k hmem hwf hexec =>
    rw [hexec, onLoadAddr_of_illegal]
    simpa [storable, hwf, hmem, or_iff_not_imp_left] using h
  | loadIndex j f hmem hwf _ hexec =>
    rw [hexec, loadIndex_of_illegal]
    simpa [readable, hwf, hmem, or_iff_not_imp_left] using h
  | store hmem _ hwf hfault =>
    refine hfault ?_
    simpa [storable, hwf, hmem, or_iff_not_imp_left] using h

/-- Settles O12: the operand is located in RAM, so it is a legal form wherever it stands, and its word is missing. -/
theorem unwrittenReadFaults : Obligations.UnwrittenReadFaults := by
  intro i t a s hread hmem hstore hnop hldx hloc hunwritten
  have hvalue : readLoc (locate t s) s = none := by simp [hloc, readLoc, ramRead, hunwritten]
  cases access i s with
  | noOperand _ hnone => rw [hmem] at hnone; cases hnone
  | nop u => exact absurd rfl (hnop (some u))
  | load k ht _ hexec =>
    obtain rfl := Option.some.inj (ht.symm.trans hmem)
    rw [hexec, onLoad_of_unwritten hread hvalue]
  | loadAddr k ht _ hexec =>
    obtain rfl := Option.some.inj (ht.symm.trans hmem)
    rw [hexec, onLoadAddr_of_unwritten (storable_of_readable hread hloc) hvalue]
  | loadIndex j f ht _ hi hexec =>
    obtain rfl := Option.some.inj (ht.symm.trans hmem)
    rw [hexec, loadIndex_of_unwritten hread (hldx j hi) hvalue]
  | store _ hs => rw [hstore] at hs; cases hs

/-! ## Forbidden register writes -/

/-- A write of `r` would reach the counter register of the active loop, itself or through an automatic load of r4 or
r6 (44_test_branch.md R231 (d); log 29). -/
def ReachesCounter (r : Reg) (s : State) : Prop :=
  s.loop.active = true ∧ (r = s.loop.reg ∨ (r = .r5 ∧ s.loop.reg = .r4 ∧ s.psr.getLsbD 10 = true) ∨
    (r = .r7 ∧ s.loop.reg = .r6 ∧ s.psr.extractLsb' 11 2 ≠ 0))

/-- The automatic load of r6 through x0 would meet the operand's own use of x0 (47_butterfly_mac.md R279 (b)). -/
def LoadsCollide (r : Reg) (t : Option Operand) (s : State) : Prop :=
  r = .r7 ∧ s.psr.extractLsb' 11 2 = 2 ∧ usesX0 t = true

theorem reachesCounter_iff {r : Reg} {s : State} :
    (s.loop.active && alsoWrites r s.loop.reg s) = true ↔ ReachesCounter r s := by
  simp only [alsoWrites, ReachesCounter, Bool.and_eq_true, Bool.or_eq_true, decide_eq_true_eq, and_assoc, or_assoc]
  rfl

theorem loadsCollide_iff {r : Reg} {t : Option Operand} {s : State} :
    (decide (r = .r7) && decide (fR7act s.psr = 2) && usesX0 t) = true ↔ LoadsCollide r t s := by
  simp only [LoadsCollide, Bool.and_eq_true, decide_eq_true_eq, and_assoc]
  rfl

section Writes
variable {r : Reg} {t : Option Operand} {s : State}

theorem writeFault_of_counter (h : ReachesCounter r s) : writeFault r t s = some .counterWrite :=
  if_pos (reachesCounter_iff.2 h)

theorem writeFault_of_collision (hc : ¬ ReachesCounter r s) (h : LoadsCollide r t s) :
    writeFault r t s = some .r6LoadCollision := by
  rw [writeFault, if_neg (mt reachesCounter_iff.1 hc), if_pos (loadsCollide_iff.2 h)]

theorem writeFault_of_neither (hc : ¬ ReachesCounter r s) (h : ¬ LoadsCollide r t s) : writeFault r t s = none := by
  rw [writeFault, if_neg (mt reachesCounter_iff.1 hc), if_neg (mt loadsCollide_iff.1 h)]

theorem writeFault_eq_none_iff : writeFault r t s = none ↔ ¬ ReachesCounter r s ∧ ¬ LoadsCollide r t s := by
  by_cases hc : ReachesCounter r s
  · simp [writeFault_of_counter hc, hc]
  by_cases hx : LoadsCollide r t s
  · simp [writeFault_of_collision hc hx, hx]
  · simp [writeFault_of_neither hc hx, hc, hx]

end Writes

theorem onWrite_of_fault {r : Reg} {t : Option Operand} {s : State} {f : Fault} (h : writeFault r t s = some f)
    (c : Cplx) (k : State → Out) : onWrite r c t s k = .fault f := by
  simp [onWrite, h]

/-- An instruction that computes a register ends in that write: of the state it
finds, or after its operand's update. -/
theorem exec_of_dest {i : Instr} {r : Reg} {s : State} (hwf : i.wellFormed = true) (hd : i.dest = some r)
    (hreads : ∀ t, i.memOperand = some t → readable t s = true ∧ ∃ v, readLoc (locate t s) s = some v) :
    (i.memOperand = none ∧ ∃ c k, exec i s = onWrite r c none s k) ∨
      ∃ t c k, i.memOperand = some t ∧ exec i s = onWrite r c (some t) (update t s) k := by
  cases i with
  | slaDynR | sllR | srlR | sraR | sirR =>
    obtain rfl := Option.some.inj hd
    refine .inl ⟨rfl, ?_⟩
    simp only [exec_slaDynR, exec_sllR, exec_srlR, exec_sraR, exec_sirR, mapReg, writeAlu]
    exact ⟨_, _, rfl⟩
  | and r t | ior r t | xor r t | add r t | sub r t | sbx r t | slaDynT r t | sllT n r t | srlT n r t | sraT n r t
  | sirT r t | lda r t =>
    obtain rfl := Option.some.inj hd
    obtain ⟨hread, v, hv⟩ := hreads t rfl
    exact .inr ⟨t, _, _, rfl, onLoad_of_reads hread hv _⟩
  | cyc r t =>
    obtain rfl := Option.some.inj hd
    obtain ⟨hread, v, hv⟩ := hreads t rfl
    obtain ⟨a, ha⟩ := locate_of_ramForm hwf s
    exact .inr ⟨t, _, _, rfl, onLoadAddr_of_reads (storable_of_readable hread ha) hv _⟩
  | _ => cases hd

/-- Settles O48: the two causes are the model's two tests, and an instruction that computes a register meets them at
its write. -/
theorem registerWriteRefusals : Obligations.RegisterWriteRefusals := by
  refine ⟨fun r t s => ⟨writeFault_eq_none_iff, writeFault_of_counter, writeFault_of_collision⟩, ?_⟩
  intro i r f s hwf hd hreads hfault
  obtain ⟨hmem, c, k, hexec⟩ | ⟨t, c, k, hmem, hexec⟩ := exec_of_dest hwf hd hreads
  · rw [hexec, onWrite_of_fault (hmem ▸ hfault)]
  · rw [hexec, onWrite_of_fault (by rw [writeFault_update, ← hmem, hfault])]

end Sys2Proof.Machine
end


section
/-!
PROOFS. The index update of an operand as numbers (40_operands_and_addressing.md R136 to R138, R140, R148): the
pointer steps, the bit-reversed sum with its carry, and what an update leaves alone.
-/

namespace Sys2Proof.Machine

/-! ## The pointer after an update -/

/-- The update is that of the operand's own index, biased or not (R138). -/
theorem getIdx_update_indexed (k : XReg) (u : Upd) (biased : Bool) (s : State) :
    getIdx k (update (.indexed k u biased) s) = { getIdx k s with ptr := updPtr u (getIdx k s) } :=
  getIdx_updateIdx_same k u s

theorem incPtr_of_limit {x : Index} (h : x.ptr = x.lim) : incPtr x = x.bas := if_pos h

theorem decPtr_of_limit {x : Index} (h : x.ptr = x.lim) : decPtr x = x.bas := if_pos h

theorem incPtr_toNat {x : Index} (h : x.ptr ≠ x.lim) :
    (incPtr x).toNat = (x.ptr.toNat + x.inc.toNat) % 8192 := by
  rw [incPtr, if_neg h, BitVec.toNat_add]

theorem decPtr_toNat {x : Index} (h : x.ptr ≠ x.lim) :
    ((decPtr x).toNat : Int) = ((x.ptr.toNat : Int) - x.inc.toNat) % 8192 := by
  have hinc : x.inc.toNat < 8192 := x.inc.isLt
  rw [decPtr, if_neg h, BitVec.toNat_sub]
  omega

/-! ## Bit reversal -/

theorem getLsbD_bitRev13 (v : Index13) {i : Nat} (hi : i < 13) : (bitRev13 v).getLsbD i = v.getLsbD (12 - i) := by
  rw [bitRev13, BitVec.getLsbD_reverse, BitVec.getMsbD]
  simp [hi]

/-- The reversed sum as a number: its 14 bits hold the carry (R137). -/
theorem revSum_toNat (x : Index) : (revSum x).toNat = (bitRev13 x.ptr).toNat + (bitRev13 x.inc).toNat := by
  have hptr : (bitRev13 x.ptr).toNat < 8192 := (bitRev13 x.ptr).isLt
  have hinc : (bitRev13 x.inc).toNat < 8192 := (bitRev13 x.inc).isLt
  simp only [revSum, BitVec.toNat_add, BitVec.toNat_setWidth]
  omega

theorem revSum_carry (x : Index) :
    (revSum x).getLsbD 13 = decide (8192 ≤ (bitRev13 x.ptr).toNat + (bitRev13 x.inc).toNat) := by
  have hlt : (revSum x).toNat < 2 ^ 14 := (revSum x).isLt
  rw [← revSum_toNat, BitVec.getLsbD, Nat.testBit_eq_decide_div_mod_eq]
  exact decide_eq_decide.2 (by omega)

theorem revSum_low (x : Index) :
    (revSum x).setWidth 13 = BitVec.ofNat 13 ((bitRev13 x.ptr).toNat + (bitRev13 x.inc).toNat) := by
  rw [← revSum_toNat, BitVec.ofNat_toNat]

theorem revPtr_eq (x : Index) :
    revPtr x =
      if 8192 ≤ (bitRev13 x.ptr).toNat + (bitRev13 x.inc).toNat
      then bitRev13 (BitVec.ofNat 13 ((bitRev13 x.ptr).toNat + (bitRev13 x.inc).toNat)) + x.lim
      else bitRev13 (BitVec.ofNat 13 ((bitRev13 x.ptr).toNat + (bitRev13 x.inc).toNat)) := by
  simp only [revPtr, revSum_carry, revSum_low, decide_eq_true_eq]

/-! ## The obligations -/

/-- Settles O8: the wrap at the limit comes before the step; the step is modulo 2^13. -/
theorem postIncrementDecrement : Obligations.PostIncrementDecrement := by
  intro k biased s
  simp only [getIdx_update_indexed, updPtr]
  exact ⟨fun h => ⟨incPtr_of_limit h, decPtr_of_limit h⟩, fun h => ⟨incPtr_toNat h, decPtr_toNat h⟩⟩

/-- Settles O9. -/
theorem bitReversedUpdate : Obligations.BitReversedUpdate := by
  refine ⟨fun v i hi => getLsbD_bitRev13 v hi, fun k biased s _ => ?_⟩
  simp only [getIdx_update_indexed, updPtr, revPtr_eq]

/-- Settles O10: without an update the pointer is written back as it was. -/
theorem updateFrame : Obligations.UpdateFrame := by
  intro t s
  refine ⟨update_eq t s, fun k => ⟨update_inc t k s, update_bas t k s, update_lim t k s⟩,
    fun k hk => getIdx_update_of_not hk s, fun hnone => ?_⟩
  cases t with
  | romDirect | ramDirect => rfl
  | indexed k u b =>
    have hu : u = .none := by simpa [updatesIndex] using hnone k
    subst hu
    exact setIdx_getIdx k s

end Sys2Proof.Machine
end

section
/-!
PROOFS. The component ALU as integers and the ALU flags (41_logic_arith.md R165, R169, 42_shift_swap.md R193): a
result is the exact integer wrapped or clamped, and overflow is the exact integer outside the range.
-/

namespace Sys2Proof.Machine

/-! ## Clamping and wrapping -/

/-- `clamp32` is the nearest value of the 32-bit range (log 22). -/
theorem clamp32_toInt (x : Int) : (clamp32 x).toInt = max (-2 ^ 31) (min x (2 ^ 31 - 1)) := by
  unfold clamp32
  split
  · have hmin : (0x80000000#32).toInt = -2 ^ 31 := by decide
    omega
  · split
    · have hmax : (0x7FFFFFFF#32).toInt = 2 ^ 31 - 1 := by decide
      omega
    · rw [BitVec.toInt_ofInt, Int.bmod_eq_of_le (by omega) (by omega)]
      omega

theorem aluOvf_iff (x : Int) : aluOvf x = true ↔ x < -2 ^ 31 ∨ 2 ^ 31 - 1 < x := by
  simp only [aluOvf, inRange32, Bool.not_eq_true', Bool.and_eq_false_iff, decide_eq_false_iff_not, not_le]

/-- A component result, whatever the exact integer `x` is. -/
theorem aluPart_word_of_saturated (x : Int) : (aluPart true x).word.toInt = max (-2 ^ 31) (min x (2 ^ 31 - 1)) :=
  clamp32_toInt x

theorem aluPart_ovf_iff (sat : Bool) (x : Int) : (aluPart sat x).ovf = true ↔ x < -2 ^ 31 ∨ 2 ^ 31 - 1 < x :=
  aluOvf_iff x

theorem ofInt_add_toInt (a b : W32) : BitVec.ofInt 32 (a.toInt + b.toInt) = a + b := by
  rw [BitVec.ofInt_add, BitVec.ofInt_toInt, BitVec.ofInt_toInt]

theorem ofInt_sub_toInt (a b : W32) : BitVec.ofInt 32 (a.toInt - b.toInt) = a - b := by
  rw [Int.sub_eq_add_neg, BitVec.ofInt_add, BitVec.ofInt_neg, BitVec.ofInt_toInt, BitVec.ofInt_toInt,
    ← BitVec.sub_eq_add_neg]

theorem ofInt_shl_toInt (a : W32) (n : Nat) : BitVec.ofInt 32 (a.toInt * 2 ^ n) = a <<< n := by
  have hpow : BitVec.ofInt 32 (2 ^ n) = BitVec.twoPow 32 n := by
    apply BitVec.eq_of_toNat_eq
    rw [BitVec.toNat_twoPow, ← BitVec.toNat_ofNat, ← BitVec.ofInt_natCast]
    norm_cast
  rw [BitVec.ofInt_mul, BitVec.ofInt_toInt, hpow, BitVec.shiftLeft_eq_mul_twoPow]

/-! ## The obligations -/

/-- Settles O18: each operation is `aluPart` of its exact integer. -/
theorem aluComponentRule : Obligations.AluComponentRule := by
  intro a b n
  exact ⟨ofInt_add_toInt a b, aluPart_word_of_saturated _, fun sat => aluPart_ovf_iff sat _,
    ofInt_sub_toInt a b, aluPart_word_of_saturated _, fun sat => aluPart_ovf_iff sat _,
    ofInt_shl_toInt a (countNat n), aluPart_word_of_saturated _, fun sat => aluPart_ovf_iff sat _⟩

/-- Settles O19: b31 is bit 1 of the two flags and b30 bit 0. -/
theorem aluFlagsRule : Obligations.AluFlagsRule := by
  intro ovr ovi s
  refine ⟨fun hsat => ?_, fun n hn => ?_, rfl⟩
  · have hflags : satFlags s ovr ovi = BitVec.ofBool ovr ++ BitVec.ofBool ovi := if_pos hsat
    rw [getLsbD_psr_setAluFlags, getLsbD_psr_setAluFlags, hflags]
    cases ovr <;> cases ovi <;> exact ⟨rfl, rfl⟩
  · rw [getLsbD_psr_setAluFlags, if_neg (by omega), if_neg (by omega)]

end Sys2Proof.Machine
end


section
/-!
PROOFS. The step and the ends of an instruction (60_exceptions.md R302, R313; 44_test_branch.md R229, R230), reset
(10_state.md R44), and the instructions that complete in one of the shared shapes: `nop`, the arithmetic,
`sla.dyn`, `lds.psr`, the loads of `bar` and `kout`, and those of the index registers.
-/

namespace Sys2Proof.Machine

/-! ## Fetch and step -/

theorem fetch_of_lookup {s : State} {w : W32} {i : Instr} (hw : Memory.lookup s.pcr.toNat s.code = some w)
    (hi : decode w = .ok i) : fetch s = .ok i := by
  simp [fetch, hw, hi]

theorem fetch_of_empty {s : State} (h : Memory.lookup s.pcr.toNat s.code = none) :
    fetch s = .error .illegalInstruction := by
  simp [fetch, h]

theorem fetch_of_undecodable {s : State} {w : W32} {e : Illegal}
    (hw : Memory.lookup s.pcr.toNat s.code = some w) (he : decode w = .error e) :
    fetch s = .error .illegalInstruction := by
  simp [fetch, hw, he]

/-- The environment's move changes neither the program counter nor the CodeROM, so the fetch is that before it. -/
theorem fetch_tick (s : State) : fetch (tick s) = fetch s := by
  simp only [fetch, tick_pcr, tick_code]

theorem step_of_fetch {s : State} {i : Instr} (hrun : s.run = .running) (hi : fetch s = .ok i) :
    step s = exec i (tick s) := by
  simp [step, hrun, fetch_tick, hi]

theorem step_of_fetch_error {s : State} {f : Fault} (hrun : s.run = .running) (hf : fetch s = .error f) :
    step s = .fault f := by
  simp [step, hrun, fetch_tick, hf]

theorem step_of_waiting {s : State} {w : Wait} (hrun : s.run = .waiting w) : step s = resume w (tick s) := by
  simp [step, hrun]

theorem step_of_halted {s : State} (hrun : s.run = .halted) : step s = .refused .halted := by
  simp [step, hrun]

/-- Settles O4: the word at the program counter is fetched, after the environment's move. -/
theorem stepRunsDecodedInstruction : Obligations.StepRunsDecodedInstruction :=
  ⟨fun _ _ _ hrun hw hi => step_of_fetch hrun (fetch_of_lookup hw hi),
    fun s henv => by rw [tick, henv], fun s p rest henv => by rw [tick, henv]⟩

/-- Settles O5: without a word that decodes the fetch stops; a processor that does not run does not fetch. -/
theorem stepWithoutInstruction : Obligations.StepWithoutInstruction :=
  ⟨fun _ hrun hw => step_of_fetch_error hrun (fetch_of_empty hw),
    fun _ _ _ hrun hw he => step_of_fetch_error hrun (fetch_of_undecodable hw he),
    fun _ _ => step_of_waiting, fun _ => step_of_halted⟩

/-! ## The ends of an instruction -/

theorem nextAddress_of_no_end {s : State} (h : ¬ (s.loop.active = true ∧ s.pcr = s.loop.stop)) :
    nextAddress s = (s.pcr + 1, s.loop) := by
  rw [nextAddress, if_neg (by simpa using h)]

theorem sub_one_eq_zero_iff {n : Nat} (c : BitVec n) : c - 1 = 0 ↔ c = 1 := sub_eq_zero

theorem nextAddress_of_pass {s : State} (ha : s.loop.active = true) (he : s.pcr = s.loop.stop)
    (hc : s.loop.count ≠ 1) :
    nextAddress s = (s.loop.start, { s.loop with count := s.loop.count - 1 }) := by
  rw [nextAddress, if_pos (by simp [ha, he]), if_neg (mt (sub_one_eq_zero_iff _).1 hc)]

theorem nextAddress_of_last_pass {s : State} (ha : s.loop.active = true) (he : s.pcr = s.loop.stop)
    (hc : s.loop.count = 1) :
    nextAddress s = (s.pcr + 1, { s.loop with count := 0, active := false }) := by
  rw [nextAddress, if_pos (by simp [ha, he]), if_pos ((sub_one_eq_zero_iff _).2 hc), hc]
  rfl

/-- Settles O14: the three ends are the model's equations. -/
theorem instructionEnds : Obligations.InstructionEnds := fun _ _ =>
  ⟨nextAddress_of_no_end, nextAddress_of_pass, nextAddress_of_last_pass, rfl, rfl, rfl⟩

/-! ## nop, the arithmetic, sla.dyn -/

/-- Settles O15: a legal indexed operand is what `nop` may have. -/
theorem nopCompletes : Obligations.NopCompletes := by
  intro s
  refine ⟨rfl, fun k u biased hlegal => ?_⟩
  have hnop : nopLegal (some (.indexed k u biased)) = true := hlegal
  exact execNop_next_iff.2 (.inr ⟨_, rfl, hnop, rfl⟩)

/-- Settles O17: the register and psr b21 are read after the operand's update, which leaves both alone. -/
theorem arithmeticCompletes : Obligations.ArithmeticCompletes := by
  intro i t v s hread hvalue hwrite
  have hwrite' : writeFault i (some t) (update t s) = none := by rwa [writeFault_update]
  rw [exec_add, exec_sub, exec_sbx]
  simp only [onLoad_of_reads hread hvalue, writeAlu_of_writable hwrite', readReg_update, satOn_update]
  exact ⟨rfl, rfl, rfl⟩

theorem slaDyn_of_left {p : Config.Params} (hp : p.slaDyn = .suggested) (v : W32) {d : W32} (h0 : 0 ≤ d.toInt)
    (h31 : d.toInt ≤ 31) : slaDyn p v d = v <<< d.toInt.toNat := by
  rw [slaDyn, hp]
  exact if_pos ⟨h0, h31⟩

/-- A negative amount divides, rounding toward minus infinity (R183). -/
theorem slaDyn_of_right {p : Config.Params} (hp : p.slaDyn = .suggested) (v : W32) {d : W32}
    (h31 : -31 ≤ d.toInt) (h1 : d.toInt ≤ -1) :
    (slaDyn p v d).toInt = v.toInt / (2 : Int) ^ (-d.toInt).toNat := by
  have hvalue : slaDyn p v d = v.sshiftRight (-d.toInt).toNat := by
    rw [slaDyn, hp]
    exact (if_neg (by omega)).trans (if_pos ⟨h31, h1⟩)
  rw [hvalue, BitVec.toInt_sshiftRight, Int.shiftRight_eq_div_pow]
  norm_cast

/-- An operand's update leaves `dsr` and the parameters alone. -/
theorem slaDynBoth_eq (s : State) (c : Cplx) :
    slaDynBoth s c = ⟨slaDyn s.cfg c.re s.dsr, slaDyn s.cfg c.im s.dsr⟩ := rfl

/-- Settles O21: both forms are their shape with the write permitted. -/
theorem dynamicShiftCompletes : Obligations.DynamicShiftCompletes := by
  constructor
  · intro rd rs t v s
    rw [exec_slaDynR, exec_slaDynT]
    exact ⟨fun hwrite => mapReg_of_writable hwrite (slaDynBoth s) rs,
      fun hread hvalue hwrite => mapMem_of_reads hread hvalue hwrite (slaDynBoth s)⟩
  · exact fun p v d hp => ⟨slaDyn_of_left hp v, slaDyn_of_right hp v⟩

/-! ## psr -/

/-- A control bit belongs to no other part of the image. -/
theorem other_masks_of_psrControl {n : Nat} (h : n < 20 ∨ n = 21) :
    psrControl.getLsbD n = true ∧ psrFlags.getLsbD n = false ∧ psrDrawn.getLsbD n = false ∧
      psrWbb.getLsbD n = false := by
  have hcases : ∀ n, n < 22 → n ≠ 20 → psrControl.getLsbD n = true ∧ psrFlags.getLsbD n = false ∧
      psrDrawn.getLsbD n = false ∧ psrWbb.getLsbD n = false := by decide
  exact hcases n (by omega) (by omega)

theorem getLsbD_psrRead_control {n : Nat} (h : n < 20 ∨ n = 21) (s : State) :
    (psrRead s).getLsbD n = s.psr.getLsbD n := by
  obtain ⟨hcontrol, hflags, hdrawn, hwbb⟩ := other_masks_of_psrControl h
  simp [getLsbD_psrRead, getLsbD_psrOpen, hcontrol, hflags, hdrawn, hwbb]

/-- With no store pending b23 reads 1 (20_memory.md R79). -/
theorem getLsbD_psrRead_wbb {s : State} (h : s.wbbEmpty = true) : (psrRead s).getLsbD 23 = true := by
  have hwbb : psrWbb.getLsbD 23 = true := by decide
  rw [getLsbD_psrRead, h, hwbb]
  simp

/-- Settles O27: the control bits, b20, b23 and the written flags of the image. -/
theorem psrImage : Obligations.PsrImage := fun s =>
  ⟨fun _ hn => getLsbD_psrRead_control hn s, getLsbD_psrRead_clearBit s, getLsbD_psrRead_wbb,
    fun _ => getLsbD_psrRead_of_written⟩

/-- Outside the control bits a `lds.psr` changes what its clear action changes. -/
theorem getLsbD_psr_writePsr_of_not_control {n : Nat} (hn : n = 20 ∨ 22 ≤ n) (w : W32) (s : State) :
    (writePsr w s).psr.getLsbD n =
      if w.getLsbD 20 = true then (macClear s).psr.getLsbD n else s.psr.getLsbD n := by
  rw [getLsbD_psr_writePsr, if_neg (by omega), getLsbD_psr_macClear]
  cases w.getLsbD 20 <;> simp

/-- Settles O26: the control bits and, as b20 says, the clear action. -/
theorem loadPsrCompletes : Obligations.LoadPsrCompletes := by
  intro t v s hread hvalue
  refine ⟨?_, fun n hn => getLsbD_psr_writePsr_control hn v.re s, fun hoff => ?_, fun hon => ?_,
    writePsr_mulw v.re s⟩
  · rw [exec_ldsPsr, loadAndComplete_of_reads hread hvalue]
  · have hoff' : ¬ v.re.getLsbD 20 = true := by rw [hoff]; decide
    exact ⟨by rw [writePsr_mac, if_neg hoff'], by rw [writePsr_flagsWritten, if_neg hoff'],
      fun n hn => by rw [getLsbD_psr_writePsr_of_not_control hn, if_neg hoff']⟩
  · exact ⟨writePsr_mac_of_clear hon s, writePsr_flagsWritten_of_clear hon s,
      fun n hn => by rw [getLsbD_psr_writePsr_of_not_control hn, if_pos hon]⟩

/-! ## bar, kout and the index registers -/

theorem truncRe_toNat (n : Nat) (c : Cplx) : (truncRe n c).toNat = c.re.toNat % 2 ^ n := BitVec.toNat_setWidth n c.re

/-- Settles O36: `bar` and `kout` take the low bits of the real part. -/
theorem barAndControlLoadsComplete : Obligations.BarAndControlLoadsComplete := by
  intro t v s hread hvalue
  rw [exec_ldsBar, exec_addBar, exec_ctl]
  simp only [loadAndComplete_of_reads hread hvalue]
  refine ⟨⟨truncRe 16 v, truncRe_toNat 16 v, rfl⟩, ⟨s.bar + truncRe 16 v, ?_, by rw [update_bar]; rfl⟩, ?_⟩
  · rw [BitVec.toNat_add, truncRe_toNat]
    omega
  · rw [ctlOut, emit, update_ports, update_trace, update_cfg]

theorem loadIndex_of_reads {k : XReg} {t : Operand} {v : Cplx} {s : State} (hread : readable t s = true)
    (hvalue : readLoc (locate t s) s = some v) (hother : updatesIndex t k = false)
    (f : Index13 → Index → Index) :
    loadIndex k t f s = .next (complete (setIdx k (f (truncRe 13 v) (getIdx k s)) (update t s))) :=
  loadIndex_next_iff.2 ⟨v, hread, hother, hvalue, rfl⟩

/-- The self-conflict of R146. -/
theorem loadIndex_of_conflict {k : XReg} {t : Operand} {s : State} (hread : readable t s = true)
    (hown : updatesIndex t k = true) (f : Index13 → Index → Index) :
    loadIndex k t f s = .fault .selfConflict := by
  have hlegal : t.legal = true := by
    simp only [readable, Bool.and_eq_true] at hread
    exact hread.1
  simp [loadIndex, hlegal, hown]

/-- Settles O42: the four loads are one shape, with or without a conflict. -/
theorem indexLoadsComplete : Obligations.IndexLoadsComplete := by
  intro k r t v s
  rw [exec_xfrPtr, exec_ldxPtr, exec_ldxInc, exec_ldxBas, exec_ldxLim]
  refine ⟨rfl, fun hread hvalue hother => ?_, fun hread hown => ?_⟩
  · have completes := loadIndex_of_reads hread hvalue hother
    exact ⟨completes _, completes _, completes _, completes _⟩
  · have stops := loadIndex_of_conflict hread hown
    exact ⟨stops _, stops _, stops _, stops _⟩

/-! ## Reset -/

/-- Settles O60: the model's reset state, field by field. -/
theorem resetState : Obligations.ResetState := by
  refine ⟨rfl, fun p => ⟨rfl, rfl, rfl, rfl, rfl, getLsbD_psrRead_wbb rfl, getLsbD_psrRead_clearBit _,
    fun _ => rfl, ?_⟩⟩
  simp [State.resetOf]

end Sys2Proof.Machine
end


section
/-!
PROOFS. Indirect branches, `cyc` and `rpt` (44_test_branch.md R221, R222, R225, R227, R228, R231 (a) to (c)): all
three take a CodeROM address from the RAM word their operand locates.
-/

namespace Sys2Proof.Machine

/-! ## `bri` and `cyc` -/

theorem exec_bri_of_reads {t : Operand} {v : Cplx} {s : State} (hstore : storable t s = true)
    (hvalue : readLoc (locate t s) s = some v) :
    exec (.bri t) s = .next (branchTo (truncRe 14 v) (update t s)) := by
  rw [exec_bri, onLoadAddr_of_reads hstore hvalue]

/-- Settles O31. -/
theorem indirectBranchCompletes : Obligations.IndirectBranchCompletes := fun _ v _ hstore hvalue =>
  ⟨_, exec_bri_of_reads hstore hvalue, truncRe_toNat 14 v, rfl, rfl⟩

/-- Settles O32: the new real part is zero exactly where the old one was 1. -/
theorem cycleCompletes : Obligations.CycleCompletes := by
  intro i t v s hstore hvalue hwrite
  have hwrite' : writeFault i (some t) (update t s) = none := by rwa [writeFault_update]
  have hzero : (decBoth (readReg i s)).re = 0 ↔ (readReg i s).re = 1#32 := sub_one_eq_zero_iff _
  rw [exec_cyc, onLoadAddr_of_reads hstore hvalue, onWrite_of_ok hwrite', readReg_update, decide_not, branchIf_not]
  simp only [decide_eq_true_eq, hzero]
  rfl

/-! ## `rpt` -/

/-! The operand's update changes nothing that `rpt` asks for. -/

theorem rptPasses_update (i : Reg) (t : Operand) (s : State) : rptPasses i (update t s) = rptPasses i s := by
  rw [rptPasses, rptPasses, readReg_update, update_cfg]

theorem rptFault_update (i : Reg) (e : CodeAddr) (t : Operand) (s : State) :
    rptFault i e (update t s) = rptFault i e s := by
  rw [rptFault, rptFault, update_loop, update_pcr, rptPasses_update]

theorem rptLoop_update (i : Reg) (e : CodeAddr) (t : Operand) (s : State) :
    rptLoop i e (update t s) = rptLoop i e s := by
  rw [rptLoop, rptLoop, update_pcr, rptPasses_update]

section Rpt
variable {i : Reg} {t : Operand} {v : Cplx} {e : CodeAddr} {s : State}

theorem rptFault_of_active (h : s.loop.active = true) : rptFault i e s = some .nestedRepeat := if_pos h

theorem rptFault_of_passes (h : s.loop.active = false) (hp : rptPasses i s ≤ 0 ∨ 2 ^ 32 ≤ rptPasses i s) :
    rptFault i e s = some .repeatCount := by
  rw [rptFault, if_neg (by simp [h]), if_pos hp]

theorem rptFault_of_end (h : s.loop.active = false) (hp : 0 < rptPasses i s ∧ rptPasses i s < 2 ^ 32)
    (he : e = s.pcr ∨ e = s.pcr + 1) : rptFault i e s = some .repeatEnd := by
  rw [rptFault, if_neg (by simp [h]), if_neg (by omega), if_pos he]

theorem rptFault_eq_none (h : s.loop.active = false) (hp : 0 < rptPasses i s ∧ rptPasses i s < 2 ^ 32)
    (he : e ≠ s.pcr) (he' : e ≠ s.pcr + 1) : rptFault i e s = none := by
  rw [rptFault, if_neg (by simp [h]), if_neg (by omega), if_neg (not_or.2 ⟨he, he'⟩)]

theorem exec_rpt_of_fault {f : Fault} (hstore : storable t s = true) (hvalue : readLoc (locate t s) s = some v)
    (hf : rptFault i (truncRe 14 v) s = some f) : exec (.rpt i t) s = .fault f := by
  rw [exec_rpt, execRpt, onLoadAddr_of_reads hstore hvalue, rptFault_update, hf]

theorem exec_rpt_of_ok (hstore : storable t s = true) (hvalue : readLoc (locate t s) s = some v)
    (hf : rptFault i (truncRe 14 v) s = none) :
    exec (.rpt i t) s =
      .next (complete (setLoop (rptLoop i (truncRe 14 v) s) (forgetReg i (update t s)))) := by
  rw [exec_rpt]
  exact execRpt_next_iff.2 ⟨v, hstore, hvalue, by rw [rptFault_update, hf], by rw [rptLoop_update]⟩

end Rpt

/-- Settles O35: the three refusals in their order. -/
theorem repeatRefusals : Obligations.RepeatRefusals := fun _ _ _ _ hstore hvalue =>
  ⟨fun h => exec_rpt_of_fault hstore hvalue (rptFault_of_active h),
    fun h hp => exec_rpt_of_fault hstore hvalue (rptFault_of_passes h hp),
    fun h hpos hlt he => exec_rpt_of_fault hstore hvalue (rptFault_of_end h ⟨hpos, hlt⟩ he)⟩

/-- The `rpt` is not the end of its own loop, so its completion is the plain one. -/
theorem complete_setLoop_of_ne {l : Loop} {s : State} (h : s.pcr ≠ l.stop) :
    complete (setLoop l s) =
      { s with loop := l, cmpf := true, pcr := s.pcr + 1, icount := s.icount + 1 } := by
  have hnext : nextAddress (setCmpf (setLoop l s)) = (s.pcr + 1, l) :=
    nextAddress_of_no_end fun hend => h hend.2
  rw [complete, advance, finishAt, hnext]
  rfl

/-- Settles O34. -/
theorem repeatCompletes : Obligations.RepeatCompletes := by
  intro i t v passes s hstore hvalue hidle hpasses hpos hlt hend hslot
  have hcount : rptPasses i s = passes := hpasses.symm
  have hok : rptFault i (truncRe 14 v) s = none := rptFault_eq_none hidle (by omega) hend hslot
  have hloop : rptLoop i (truncRe 14 v) s =
      ⟨true, s.pcr + 2, v.re.setWidth 14, BitVec.ofNat 32 passes, i⟩ := by
    rw [rptLoop, hcount, BitVec.ofInt_natCast]
    rfl
  have hne : (forgetReg i (update t s)).pcr ≠ v.re.setWidth 14 := by simpa using Ne.symm hend
  rw [exec_rpt_of_ok hstore hvalue hok, hloop, complete_setLoop_of_ne hne, forgetReg_pcr, update_pcr,
    forgetReg_icount, update_icount]

end Sys2Proof.Machine
end

section
/-!
PROOFS. The ports, `wai`, `brk` and `fls.wbb` (45_bar_ports_control.md R243 to R249; 10_state.md R42): an instruction
that waits is resumed by the same operation that began the wait.
-/

namespace Sys2Proof.Machine

/-! ## The run state -/

theorem setRun_of_run {r : Run} {s : State} (h : s.run = r) : setRun r s = s := by
  rw [setRun, ← h]

theorem setRun_running_of_running {s : State} (h : s.run = .running) (t : Operand) :
    setRun .running (update t s) = update t s := setRun_of_run ((update_run t s).trans h)

/-! ## Sending (R243) -/

theorem outReady_update (p : Port) (t : Operand) (s : State) : outReady p (update t s) = outReady p s := by
  simp [outReady]

theorem sendWord_of_ready {p : Port} {s : State} (h : outReady p s = true) (w : W32) :
    sendWord p w s = complete (setRun .running (portOut p w s)) := if_pos h

theorem sendWord_of_stalled {p : Port} {s : State} (h : outReady p s = false) (w : W32) :
    sendWord p w s = setRun (.waiting (.send p w)) s := if_neg (by simp [h])

section Send
variable {p : Port} {t : Operand} {v : Cplx} {s : State} (hread : readable t s = true)
  (hvalue : readLoc (locate t s) s = some v)
include hread hvalue

theorem exec_ldsCom_of_ready (hrun : s.run = .running) (hready : outReady p s = true) :
    exec (.ldsCom p t) s = .next (complete (portOut p v.re (update t s))) := by
  have hready' : outReady p (update t s) = true := by rwa [outReady_update]
  rw [exec_ldsCom, onLoad_of_reads hread hvalue, sendWord_of_ready hready', setRun_of_run (by simp [hrun])]

theorem exec_ldsCom_of_stalled (hstalled : outReady p s = false) :
    exec (.ldsCom p t) s = .next (setRun (.waiting (.send p v.re)) (update t s)) := by
  have hstalled' : outReady p (update t s) = false := by rwa [outReady_update]
  rw [exec_ldsCom, onLoad_of_reads hread hvalue, sendWord_of_stalled hstalled']

end Send

theorem portOut_p0 (w : W32) (t : Operand) (s : State) :
    portOut .p0 w (update t s) =
      { update t s with ports := { s.ports with pout := w }, trace := .out .p0 w :: s.trace } := by
  rw [portOut, emit, update_ports, update_trace]

theorem portOut_p1 (w : W32) (t : Operand) (s : State) :
    portOut .p1 w (update t s) =
      { update t s with ports := { s.ports with qout := w }, trace := .out .p1 w :: s.trace } := by
  rw [portOut, emit, update_ports, update_trace]

/-- Whether a path is ready, of both ports (R249, PORT_BLOCKING). -/
theorem outReady_eq_true_iff (s : State) :
    (outReady .p0 s = true ↔ s.cfg.portBlocking = false ∨ s.pins.poutReady = true) ∧
      (outReady .p1 s = true ↔ s.cfg.portBlocking = false ∨ s.pins.qoutReady = true) := by
  simp [outReady]

theorem inReady_eq_true_iff (s : State) :
    (inReady .p0 s = true ↔ s.cfg.portBlocking = false ∨ s.pins.pinReady = true) ∧
      (inReady .p1 s = true ↔ s.cfg.portBlocking = false ∨ s.pins.qinReady = true) := by
  simp [inReady]

theorem stalled_of_blocking {s : State} (h : s.cfg.portBlocking = true) :
    (s.pins.poutReady = false → outReady .p0 s = false) ∧ (s.pins.qoutReady = false → outReady .p1 s = false) ∧
      (s.pins.pinReady = false → inReady .p0 s = false) ∧ (s.pins.qinReady = false → inReady .p1 s = false) := by
  simp [outReady, inReady, h]

/-- Settles O37: each port on its ready and its stalled path. -/
theorem sendCompletes : Obligations.SendCompletes := by
  intro t v s hread hvalue hrun
  obtain ⟨hp0, hp1⟩ := outReady_eq_true_iff s
  refine ⟨fun hready => ?_, fun hready => ?_, fun hblock hpin => ?_, fun hblock hpin => ?_⟩
  · rw [exec_ldsCom_of_ready hread hvalue hrun (hp0.2 hready), portOut_p0]
  · rw [exec_ldsCom_of_ready hread hvalue hrun (hp1.2 hready), portOut_p1]
  · exact exec_ldsCom_of_stalled hread hvalue ((stalled_of_blocking hblock).1 hpin)
  · exact exec_ldsCom_of_stalled hread hvalue ((stalled_of_blocking hblock).2.1 hpin)

/-! ## Receiving (R244) -/

theorem recvWord_of_ready {p : Port} {t : Operand} {a : RamAddr} {s : State} (hstore : storable t s = true)
    (hloc : locate t s = .ram a) (hready : inReady p s = true) :
    recvWord p t s = .next (complete (update t (ramWrite a ⟨portIn p s, 0⟩
      { s with trace := .inp p (portIn p s) :: s.trace, run := .running }))) :=
  recvWord_next_iff.2 ⟨hstore, .inl ⟨hready, a, hloc, rfl⟩⟩

theorem recvWord_of_stalled {p : Port} {t : Operand} {s : State} (hstore : storable t s = true)
    (hstalled : inReady p s = false) : recvWord p t s = .next (setRun (.waiting (.recv p t)) s) :=
  recvWord_next_iff.2 ⟨hstore, .inr ⟨hstalled, rfl⟩⟩

theorem exec_stsCom_of_ready {p : Port} {t : Operand} {a : RamAddr} {s : State} (hstore : storable t s = true)
    (hloc : locate t s = .ram a) (hrun : s.run = .running) (hready : inReady p s = true) :
    exec (.stsCom p t) s = .next (complete (update t (ramWrite a ⟨portIn p s, 0⟩
      { s with trace := .inp p (portIn p s) :: s.trace }))) := by
  rw [exec_stsCom, recvWord_of_ready hstore hloc hready, ← hrun]

/-- Settles O38: each port on its ready and its stalled path. -/
theorem receiveCompletes : Obligations.ReceiveCompletes := by
  intro t a s hstore hloc hrun
  obtain ⟨hp0, hp1⟩ := inReady_eq_true_iff s
  refine ⟨fun hready => ?_, fun hready => ?_, fun hblock hpin => ?_, fun hblock hpin => ?_⟩
  · exact exec_stsCom_of_ready hstore hloc hrun (hp0.2 hready)
  · exact exec_stsCom_of_ready hstore hloc hrun (hp1.2 hready)
  · exact recvWord_of_stalled hstore ((stalled_of_blocking hblock).2.2.1 hpin)
  · exact recvWord_of_stalled hstore ((stalled_of_blocking hblock).2.2.2 hpin)

/-! ## Resuming (R42) -/

/-- Setting the run state and writing an output path do not meet. -/
theorem setRun_portOut (r : Run) (p : Port) (w : W32) (s : State) :
    setRun r (portOut p w s) = portOut p w { s with run := r } := by
  cases p <;> rfl

/-- Settles O39: the waiting instruction is the operation it waits in, in a state that waits already. -/
theorem waitingPortsResume : Obligations.WaitingPortsResume := by
  intro port w t a s _
  refine ⟨fun hwait => ⟨fun hready => ?_, fun hstalled => ?_⟩,
    fun hwait hstore hloc => ⟨fun hready => ?_, fun hstalled => ?_⟩⟩
  · rw [resume, sendWord_of_ready hready, setRun_portOut]
  · rw [resume, sendWord_of_stalled hstalled, setRun_of_run hwait]
  · exact recvWord_of_ready hstore hloc hready
  · rw [resume, recvWord_of_stalled hstore hstalled, setRun_of_run hwait]

/-! ## `brk`, `fls.wbb` and `wai` -/

/-- Settles O40. -/
theorem breakAndFlushComplete : Obligations.BreakAndFlushComplete := fun s =>
  ⟨exec_brk s, exec_flsWbb s, getLsbD_psrRead_wbb rfl⟩

/-- One sample of the `K_WIDTH` bits of `kin` (R247; log 31). -/
theorem pollCond_eq (v : W32) (s : State) :
    pollCond v s =
      if Config.waiCond s.cfg.kWidth (kinWord s) v = true
      then complete { s with trace := .kin (kinWord s) :: s.trace, run := .running }
      else { s with trace := .kin (kinWord s) :: s.trace, run := .waiting (.cond v) } := rfl

/-- Settles O41: `wai` is a sample in the state after its operand's update, and a waiting `wai` one in a state that
waits already. -/
theorem waitCompletes : Obligations.WaitCompletes := by
  constructor
  · intro t v s hread hvalue hrun
    have hkin : kinWord (update t s) = s.pins.kin % 2 ^ s.cfg.kWidth := by simp [kinWord]
    have hcond : Config.waiCond (update t s).cfg.kWidth = Config.waiCond s.cfg.kWidth := by rw [update_cfg]
    have hrun' : Run.running = (update t s).run := by simp [hrun]
    rw [exec_wai, onLoad_of_reads hread hvalue, pollCond_eq, hkin, hcond, update_trace, hrun']
  · intro v s hwait
    rw [resume, pollCond_eq, ← hwait]
    rfl

end Sys2Proof.Machine
end


section
/-!
PROOFS. A write of r7 and the transparent configuration of the Butterfly/MAC unit (47_butterfly_mac.md R273, R278,
R279, R284).
-/

namespace Sys2Proof.Machine

/-! ## What a register takes -/

/-- `reg` has taken an output: its value, or no specified value where the output is unspecified (R271). -/
def Takes (out : Option Cplx) (reg : MacReg) : Prop :=
  (∀ v, out = some v → reg = ⟨v, true⟩) ∧ (out = none → reg.specified = false)

theorem takes_take (out : Option Cplx) (free : Cplx) : Takes out (.take out free) := by
  constructor
  · rintro v rfl; rfl
  · rintro rfl; rfl

/-! The multiplexers in front of `a`, `b` and `r6_in`, option by option (R278, R279). -/

section Multiplexers
variable {s : State}

theorem nextA_eq_zero (h : fAmux s.psr = 0) : nextA s = .zero := by simp [nextA, h]

theorem nextA_eq_r4in (h : fAmux s.psr = 1) : nextA s = s.mac.r4in := by simp [nextA, h]

theorem nextA_eq_takeS3 (h : fAmux s.psr = 2) : nextA s = takeS3 s := by simp [nextA, h]

theorem nextA_unspecified (h : fAmux s.psr = 3) : (nextA s).specified = false := by simp [nextA, h]

theorem nextB_eq_zero (h : fBmux s.psr = 0) : nextB s = .zero := by simp [nextB, h]

theorem nextB_eq_latch (h : fBmux s.psr = 1) :
    (s.cfg.bmux1 = .r4In → nextB s = s.mac.r4in) ∧ (s.cfg.bmux1 = .r5In → nextB s = s.mac.r5in) := by
  constructor <;> intro hb <;> simp [nextB, h, hb]

theorem nextB_eq_take (h : fBmux s.psr = 2) :
    (s.cfg.bmux2 = .s3 → nextB s = takeS3 s) ∧ (s.cfg.bmux2 = .d3 → nextB s = takeD3 s) := by
  constructor <;> intro hb <;> simp [nextB, h, hb]

theorem nextB_unspecified (h : fBmux s.psr = 3) : (nextB s).specified = false := by simp [nextB, h]

variable {v : Cplx} {t : Option Operand}

theorem nextR6_eq_self (h : fR7act s.psr = 0) : nextR6 v t s = s.mac.r6in := by simp [nextR6, h]

theorem nextR6_eq_value (h : fR7act s.psr = 1) : nextR6 v t s = ⟨v, true⟩ := by simp [nextR6, h]

theorem nextR6_eq_load (h : fR7act s.psr = 2) (ht : isIndexedOperand t = true) :
    nextR6 v t s = ⟨romRead s.idx.x0.ptr s, true⟩ := by simp [nextR6, h, ht]

/-- U1: the automatic load without an indexed operand. -/
theorem nextR6_unspecified_of_load (h : fR7act s.psr = 2) (ht : isIndexedOperand t = false) :
    (nextR6 v t s).specified = false := by simp [nextR6, h, ht]

theorem nextR6_unspecified (h : fR7act s.psr = 3) : (nextR6 v t s).specified = false := by simp [nextR6, h]

end Multiplexers

/-! ## What a flag accumulates -/

/-- Bit `n` of psr and of the record of the written flags has taken in a condition (R284): ORed in where it is
specified; where not, the bit is a draw (R271, R334). -/
def Accumulates (s s' : State) (n : Nat) (cond : Option Bool) : Prop :=
  (∀ b, cond = some b → s'.psr.getLsbD n = (s.psr.getLsbD n || b) ∧
    s'.flagsWritten.getLsbD n = (s.flagsWritten.getLsbD n || b)) ∧
  (cond = none → s'.psr.getLsbD n = false ∧ s'.flagsWritten.getLsbD n = false)

/-- Every bit takes in the condition that feeds it. -/
theorem accumulates_writeR7 (c : Cplx) (t : Option Operand) (s : State) (n : Nat) :
    Accumulates s (writeR7 c t s) n (accCond (macOut s) n) := by
  simp only [Accumulates, writeR7_psr, writeR7_flagsWritten, getLsbD_accumulate]
  cases accCond (macOut s) n <;> simp

theorem bigOut_of_some (part : Cplx → W32) {o : MacOut} {x y : Cplx} (hs : o.s3 = some x) (hd : o.d3 = some y) :
    bigOut part o = some (big (part x) || big (part y)) := by
  simp [bigOut, hs, hd]

theorem bigOut_of_none (part : Cplx → W32) {o : MacOut} (h : o.s3 = none ∨ o.d3 = none) :
    bigOut part o = none := by
  obtain h | h := h
  · simp [bigOut, h]
  · cases hs : o.s3 <;> simp [bigOut, hs, h]

/-- Settles O45: the unit after the write is `nextMac`, and psr `accumulate`, both of the state before it. -/
theorem r7WriteTrigger : Obligations.R7WriteTrigger := by
  intro c t s o act amux bmux s' takes accumulates
  have hmac : s'.mac = nextMac c t s := writeR7_mac c t s
  have hidx : s'.idx = if fR7act s.psr = 2 ∧ isIndexedOperand t = true then (updateIdx .x0 .inc s).idx else s.idx :=
    writeR7_idx c t s
  have hacc (n : Nat) : Accumulates s s' n (accCond o n) := accumulates_writeR7 c t s n
  rw [hmac, hidx]
  refine ⟨rfl, rfl, rfl, takes_take _ _, takes_take _ _, takes_take _ _, nextA_eq_zero, nextA_eq_r4in,
    nextA_eq_takeS3, nextA_unspecified, nextB_eq_zero, nextB_eq_latch, nextB_eq_take, nextB_unspecified,
    nextR6_eq_self, nextR6_eq_value, fun h ht => ⟨nextR6_eq_load h ht, if_pos ⟨h, ht⟩⟩, nextR6_unspecified_of_load,
    nextR6_unspecified, fun h => if_neg ?noLoad, fun x y hx hy => ⟨?bigRe, ?bigIm⟩,
    fun hnone => ⟨?noneRe, ?noneIm⟩, hacc 29, hacc 28, fun n h24 h25 h28 h29 => ⟨?psr, ?written⟩,
    writeR7_mulw c t s⟩
  case noLoad =>
    rintro ⟨hact, hindexed⟩
    obtain h | h := h
    · exact h hact
    · rw [h] at hindexed; cases hindexed
  case bigRe => exact bigOut_of_some Cplx.re hx hy ▸ hacc 24
  case bigIm => exact bigOut_of_some Cplx.im hx hy ▸ hacc 25
  case noneRe => exact bigOut_of_none Cplx.re hnone ▸ hacc 24
  case noneIm => exact bigOut_of_none Cplx.im hnone ▸ hacc 25
  case psr => exact getLsbD_psr_writeReg .r7 c t s h24 h25 h28 h29
  case written => exact getLsbD_flagsWritten_writeReg .r7 c t s h24 h25 h28 h29

/-! ## The transparent configuration (R273) -/

/-- The value a register was last written with: r0 to r3, and the input latches of r4 to r7. -/
def latched (j : Reg) (s : State) : Cplx :=
  match j with
  | .r0 => s.gpr.r0
  | .r1 => s.gpr.r1
  | .r2 => s.gpr.r2
  | .r3 => s.gpr.r3
  | .r4 => s.mac.r4in.value
  | .r5 => s.mac.r5in.value
  | .r6 => s.mac.r6in.value
  | .r7 => s.mac.r7in.value

/-- With psr b17 and b18 off the output multiplexers select the latches (R274). -/
theorem readReg_eq_latched {s : State} (h17 : fOut45 s.psr = false) (h18 : fOut67 s.psr = false) (j : Reg) :
    readReg j s = latched j s := by
  cases j with
  | r0 | r1 | r2 | r3 => rfl
  | r4 => exact (readReg_r4_r5_of_latches h17).1
  | r5 => exact (readReg_r4_r5_of_latches h17).2
  | r6 => exact (readReg_r6_r7_of_latches h18).1
  | r7 => exact (readReg_r6_r7_of_latches h18).2

theorem latched_writeReg_same (i : Reg) (c : Cplx) (t : Option Operand) (s : State) :
    latched i (writeReg i c t s) = c := by
  cases i with
  | r7 => exact congrArg (fun m : Mac => m.r7in.value) (writeR7_mac c t s)
  | _ => rfl

/-- With psr b10 and b12,b11 off no write loads another register (R276, R278). -/
theorem latched_writeReg_ne {i j : Reg} {s : State} (h10 : fR5to4 s.psr = false) (hact : fR7act s.psr = 0)
    (hne : j ≠ i) (c : Cplx) (t : Option Operand) : latched j (writeReg i c t s) = latched j s := by
  cases i with
  | r5 =>
    rw [writeReg_r5_of_off h10]
    cases j <;> simp [latched] at hne ⊢
  | r7 =>
    have hmac : (writeReg .r7 c t s).mac = nextMac c t s := writeR7_mac c t s
    have hgpr : (writeReg .r7 c t s).gpr = s.gpr := writeR7_gpr c t s
    cases j with
    | r0 | r1 | r2 | r3 => simp only [latched, hgpr]
    | r4 | r5 => simp only [latched, hmac, nextMac]
    | r6 => simp only [latched, hmac, nextMac, nextR6_eq_self hact]
    | r7 => exact absurd rfl hne
  | _ => cases j <;> simp [latched, writeReg] at hne ⊢

/-- Settles O46: a write leaves the multiplexers' bits, so every read before and after it is of the latches. -/
theorem transparentConfiguration : Obligations.TransparentConfiguration := by
  intro i j c t s h17 h18 h10 hact
  have h17' : (writeReg i c t s).psr.getLsbD 17 = false := by
    rw [getLsbD_psr_writeReg i c t s (by decide) (by decide) (by decide) (by decide), h17]
  have h18' : (writeReg i c t s).psr.getLsbD 18 = false := by
    rw [getLsbD_psr_writeReg i c t s (by decide) (by decide) (by decide) (by decide), h18]
  simp only [readReg_eq_latched h17' h18', readReg_eq_latched h17 h18]
  exact ⟨latched_writeReg_same i c t s, fun hne => latched_writeReg_ne h10 hact hne c t⟩

end Sys2Proof.Machine
end


section
/-!
PROOFS. The outputs of the suggested datapath of the Butterfly/MAC unit (47_butterfly_mac.md R271, R280 to R283;
70_reset_and_hazards.md R334).
-/

namespace Sys2Proof.Machine

theorem macOut_of_suggested {s : State} (h : s.cfg.macComb = .suggested) : macOut s = suggestedOut s := by
  simp [macOut, h]

/-! ## The butterfly -/

/-- A field inside a field (33's layout of psr: the statement names the wide fields, the model the narrow ones). -/
theorem extractLsb'_extractLsb' {w : Nat} (x : BitVec w) {a m b n : Nat} (h : b + n ≤ m) :
    (x.extractLsb' a m).extractLsb' b n = x.extractLsb' (a + b) n := by
  ext k hk
  have hlt : b + k < m := by omega
  simp [hlt, Nat.add_assoc]

/-- psr's control fields are those of the butterfly: the sum, the difference, no shift, no rounding, the plain
product at scale 0, `r6_in` as first factor. -/
structure ButterflyControl (psr : W32) : Prop where
  sop : fSop psr = 0
  dop : fDop psr = 1
  shr : fShr psr = false
  rnd : fRnd psr = false
  mulop : fMulop psr = 0
  scale : fScale psr = 0
  muxL : fMuxL psr = false

theorem butterflyControl_of_fields {psr : W32} (h03 : psr.extractLsb' 0 4 = 4) (h89 : psr.extractLsb' 8 2 = 0)
    (h13 : psr.extractLsb' 13 4 = 0) (h19 : psr.getLsbD 19 = false) : ButterflyControl psr where
  sop := by rw [fSop, ← extractLsb'_extractLsb' psr (a := 0) (m := 4) (b := 0) (by decide), h03]; rfl
  dop := by rw [fDop, ← extractLsb'_extractLsb' psr (a := 0) (m := 4) (b := 2) (by decide), h03]; rfl
  shr := by simpa [fShr] using congrArg (BitVec.getLsbD · 0) h89
  rnd := by simpa [fRnd] using congrArg (BitVec.getLsbD · 1) h89
  mulop := by rw [fMulop, ← extractLsb'_extractLsb' psr (a := 13) (m := 4) (b := 0) (by decide), h13]; rfl
  scale := by rw [fScale, ← extractLsb'_extractLsb' psr (a := 13) (m := 4) (b := 2) (by decide), h13]; rfl
  muxL := h19

theorem mulReady_of_old_enough {s : State} {w : Nat} (hw : s.mulw = some w)
    (hold : w + s.cfg.mulLatency + 1 ≤ s.icount) : mulReady s = true := by
  simp [mulReady, hw, hold]

theorem MacReg.known_of_specified {r : MacReg} (h : r.specified = true) : r.known = some r.value := by
  simp [MacReg.known, h]

section Butterfly
variable {psr : W32} (hc : ButterflyControl psr)
include hc

/-- The complex product in units of 2^-31, rounded down and saturated. -/
theorem mulProduct_of_butterfly (m w : Cplx) :
    mulProduct psr m w =
      ⟨clamp32 ((m.re.toInt * w.re.toInt - m.im.toInt * w.im.toInt) / 2 ^ 31),
        clamp32 ((m.re.toInt * w.im.toInt + m.im.toInt * w.re.toInt) / 2 ^ 31)⟩ := by
  simp [mulProduct, mulScale, mulOp, hc.scale, hc.mulop]

theorem postShift_of_butterfly (p : Config.Params) (x : Int) : postShift p psr x = x := by
  simp [postShift, hc.rnd, hc.shr]

theorem adder_sum_of_butterfly (p : Config.Params) (x y : Cplx) :
    (adder p psr (fSop psr) (some x) (some y)).map Sum.out =
      some ⟨clamp32 (x.re.toInt + y.re.toInt), clamp32 (x.im.toInt + y.im.toInt)⟩ := by
  simp [adder, adderOp, post, postShift_of_butterfly hc, hc.sop]

theorem adder_difference_of_butterfly (p : Config.Params) (x y : Cplx) :
    (adder p psr (fDop psr) (some x) (some y)).map Sum.out =
      some ⟨clamp32 (x.re.toInt - y.re.toInt), clamp32 (x.im.toInt - y.im.toInt)⟩ := by
  simp [adder, adderOp, post, postShift_of_butterfly hc, hc.dop]

end Butterfly

/-! ## What is unspecified -/

/-- The outputs that are computed from the product are unspecified. -/
def MacOut.WithoutProduct (o : MacOut) : Prop :=
  o.s3 = none ∧ o.d3 = none ∧ o.satRe = none ∧ o.satIm = none ∧ o.mulOut6 = none ∧ o.mulOut7 = none

section Unspecified
variable {s : State}

/-- An adder without one of its inputs puts out nothing. -/
theorem adder_eq_none {x y : Option Cplx} (h : x = none ∨ y = none) (p : Config.Params) (psr : W32)
    (op : BitVec 2) : adder p psr op x y = none := by
  rw [← Option.not_isSome_iff_eq_none, adder_isSome]
  obtain rfl | rfl := h <;> simp

theorem sumOut_eq_none (h : s.mac.a.known = none ∨ macProduct s = none) : sumOut s = none := adder_eq_none h _ _ _

theorem difOut_eq_none (h : s.mac.b.known = none ∨ macProduct s = none) : difOut s = none := adder_eq_none h _ _ _

/-- A saturation is of both adders. -/
theorem satOut_eq_none (part : Sum → Bool) (h : sumOut s = none ∨ difOut s = none) : satOut part s = none := by
  obtain h | h := h
  · simp [satOut, h]
  · cases hs : sumOut s <;> simp [satOut, hs, h]

theorem suggestedOut_withoutProduct (h : macProduct s = none) : (suggestedOut s).WithoutProduct := by
  have hsum : sumOut s = none := sumOut_eq_none (.inr h)
  have hdif : difOut s = none := difOut_eq_none (.inr h)
  simp [MacOut.WithoutProduct, suggestedOut, hsum, hdif, h, satOut_eq_none _ (.inl hsum)]

theorem otherOut_withoutProduct (id : Nat) (h : mulReady s = false) : (otherOut id s).WithoutProduct := by
  simp [MacOut.WithoutProduct, otherOut, h]

theorem macProduct_eq_none_of_young (h : mulReady s = false) : macProduct s = none := by simp [macProduct, h]

/-- The product needs both factors: the second in `r7_in`, the first where psr b19 points. -/
theorem macProduct_eq_none_of_factor (h : s.mac.r7in.specified = false ∨
    (fMuxL s.psr = false ∧ s.mac.r6in.specified = false) ∨ (fMuxL s.psr = true ∧ s.mac.lreg.specified = false)) :
    macProduct s = none := by
  rw [Option.eq_none_iff_forall_ne_some]
  intro p hp
  obtain ⟨-, m, w, h7, hfactor, -⟩ := macProduct_eq_some_iff.1 hp
  obtain h | ⟨hmux, h⟩ | ⟨hmux, h⟩ := h
  · simp [h7] at h
  · simp [hmux] at hfactor
    simp [hfactor] at h
  · simp [hmux] at hfactor
    simp [hfactor] at h

theorem mulReady_eq_false (h : ∀ w, s.mulw = some w → s.icount < w + s.cfg.mulLatency + 1) : mulReady s = false := by
  unfold mulReady
  split
  · rfl
  · next w hw => exact decide_eq_false (Nat.not_le.2 (h w hw))

/-- Whatever `MAC_COMB` is, nothing of a product that is too young (R334). -/
theorem macOut_withoutProduct_of_young (h : mulReady s = false) : (macOut s).WithoutProduct := by
  unfold macOut
  split
  · exact suggestedOut_withoutProduct (macProduct_eq_none_of_young h)
  · next id _ => exact otherOut_withoutProduct id h

end Unspecified

/-- Settles O47: the adders of the suggested datapath evaluated, and what the absence of an input takes away. -/
theorem butterflyOutputs : Obligations.ButterflyOutputs := by
  refine ⟨?values, fun s h => macOut_withoutProduct_of_young (mulReady_eq_false h), ?unspecified⟩
  case values =>
    intro s w hcfg hw hold h6 h7 ha hb h03 h89 h13 h19 sat f y pre pim
    have hc : ButterflyControl s.psr := butterflyControl_of_fields h03 h89 h13 h19
    have hproduct : macProduct s = some (mulProduct s.psr f y) := by
      simp [macProduct, mulReady_of_old_enough hw hold, hc.muxL, MacReg.known_of_specified h6,
        MacReg.known_of_specified h7, f, y]
    have hs3 := adder_sum_of_butterfly hc s.cfg s.mac.a.value (mulProduct s.psr f y)
    have hd3 := adder_difference_of_butterfly hc s.cfg s.mac.b.value (mulProduct s.psr f y)
    rw [← hproduct, ← MacReg.known_of_specified ha] at hs3
    rw [← hproduct, ← MacReg.known_of_specified hb] at hd3
    rw [macOut_of_suggested hcfg]
    refine ⟨_, _, hs3, hd3, ?_⟩
    simp only [mulProduct_of_butterfly hc, clamp32_toInt]
    exact ⟨rfl, rfl, rfl, rfl⟩
  case unspecified =>
    intro s hcfg o
    have ho : o = suggestedOut s := macOut_of_suggested hcfg
    rw [ho]
    refine ⟨fun h => suggestedOut_withoutProduct (macProduct_eq_none_of_factor h), fun ha => ?a, fun hb => ?b,
      MacReg.known_eq_none_iff.2⟩
    case a =>
      have hsum : sumOut s = none := sumOut_eq_none (.inl (MacReg.known_eq_none_iff.2 ha))
      simp [suggestedOut, hsum, satOut_eq_none _ (.inl hsum)]
    case b =>
      have hdif : difOut s = none := difOut_eq_none (.inl (MacReg.known_eq_none_iff.2 hb))
      simp [suggestedOut, hdif, satOut_eq_none _ (.inr hdif)]

end Sys2Proof.Machine
end
